-- ==== Sys2Proof/Word.lean ====
section
/-! DEFINITION. The word types of the CHIP-8 core (spec 00_scope.md section 4, 10_state.md). Every value is unsigned
(R10). -/

namespace Sys2Proof

/-- One byte: a memory cell, a general register, a timer (R20, R28, R29, R50). -/
abbrev Byte := BitVec 8

/-- A 16-bit word: I, PC, a stack slot, an instruction word (R23, R24, R27, R71). -/
abbrev Word16 := BitVec 16

/-- A 12-bit absolute address field (R72). -/
abbrev Addr := BitVec 12

/-- A mask of sixteen keys; bit k is 1 when key k is down (R32). -/
abbrev KeyMask := BitVec 16

/-- The number of a general register, 0x0..0xF (R20). -/
abbrev Reg := Fin 16

/-- VF, register 15 (R21). -/
def VF : Reg := 15

/-- The size of memory in bytes (R50). -/
abbrev memSize : Nat := 4096

/-- The address a program is loaded at and started from (R53, R263). -/
abbrev progBase : Nat := 0x200

/-- The longest program that `init` accepts, 4096 − 0x200 bytes (R260). -/
abbrev maxProgLen : Nat := 3584

/-- The number of bytes of the font: 16 glyphs of 5 bytes (R8). -/
abbrev fontSize : Nat := 80

/-- The width of the display in cells (R30). -/
abbrev dispW : Nat := 64

/-- The height of the display in cells (R30). -/
abbrev dispH : Nat := 32

end Sys2Proof
end

