-- ==== Sys2Proof/Config.lean ====
section
/-! DEFINITION. What an implementation fixes (the configuration inputs of spec 00_scope.md R6 to R9) and the one free
value, the environment's choice of the next event (60_exceptions.md R230). -/

namespace Sys2Proof

/-- The configuration inputs. They are constant along every run; the machine's state carries them because `exec` has no
other argument, so every claim about all states holds for every configuration (assumption 1). -/
structure Config where
  /-- QUIRK_LOGIC_VF_RESET: whether 8XY1, 8XY2 and 8XY3 write VF <- 0 (R6). -/
  quirkLogicVfReset : Bool
  /-- FONT_BASE: the address of the first byte of the font (R7). -/
  fontBase : Nat
  /-- FONT_DATA: the 80 bytes installed at FONT_BASE (R8). -/
  fontData : List Byte
  /-- IPS: instruction steps per second; only the concrete scheduler reads it (R9). -/
  ips : Nat
deriving DecidableEq, Repr

/-- An event of a run (60_exceptions.md R230, R238). -/
inductive Event where
  /-- `Step(r)`: one instruction step; `r` is the random byte a CXKK in that step uses (R140). -/
  | step (r : Byte)
  /-- `Tick(m)`: one 60 Hz tick with key sample `m` (R233). -/
  | tick (m : KeyMask)
  /-- The stop signal (R238). -/
  | stop
deriving DecidableEq, Repr, Inhabited

/-- The environment's choice of the event with a given number. It has no body that a proof can see, so every
interleaving of steps and ticks, every random byte and every key sample is possible (R230, R140, R233;
assumption 4). -/
opaque Config.freeEvent : Nat → Event

/-- The fixed rate of the timer cadence, per second (R9). -/
abbrev tickHz : Nat := 60

end Sys2Proof
end

