-- ==== Sys2Proof/Syntax.lean ====
section
/-! DEFINITION. The instructions of the CHIP-8 core, one constructor per row of spec/opcode_table.json, in the
table's order (30_encoding.md R75). A register operand is a `Reg`, an immediate is a bit vector of its field's width,
so no operand can lie outside its field (R72). -/

namespace Sys2Proof

inductive Instr where
  /-- 00E0 CLS (R170). -/
  | cls
  /-- 00EE RET (R100). -/
  | ret
  /-- 1NNN JP addr (R101). -/
  | jp (addr : Addr)
  /-- 2NNN CALL addr (R102). -/
  | call (addr : Addr)
  /-- 3XKK SE Vx, kk (R103). -/
  | seImm (x : Reg) (kk : Byte)
  /-- 4XKK SNE Vx, kk (R104). -/
  | sneImm (x : Reg) (kk : Byte)
  /-- 5XY0 SE Vx, Vy (R105). -/
  | seReg (x y : Reg)
  /-- 6XKK LD Vx, kk (R120). -/
  | ldImm (x : Reg) (kk : Byte)
  /-- 7XKK ADD Vx, kk (R121). -/
  | addImm (x : Reg) (kk : Byte)
  /-- 8XY0 LD Vx, Vy (R123). -/
  | ldReg (x y : Reg)
  /-- 8XY1 OR Vx, Vy (R124). -/
  | orReg (x y : Reg)
  /-- 8XY2 AND Vx, Vy (R125). -/
  | andReg (x y : Reg)
  /-- 8XY3 XOR Vx, Vy (R126). -/
  | xorReg (x y : Reg)
  /-- 8XY4 ADD Vx, Vy (R128). -/
  | addReg (x y : Reg)
  /-- 8XY5 SUB Vx, Vy (R129). -/
  | sub (x y : Reg)
  /-- 8XY6 SHR Vx; the y field is decoded and not read (R131, R73). -/
  | shr (x y : Reg)
  /-- 8XY7 SUBN Vx, Vy (R132). -/
  | subn (x y : Reg)
  /-- 8XYE SHL Vx; the y field is decoded and not read (R133, R73). -/
  | shl (x y : Reg)
  /-- 9XY0 SNE Vx, Vy (R106). -/
  | sneReg (x y : Reg)
  /-- ANNN LD I, addr (R150). -/
  | ldI (addr : Addr)
  /-- BNNN JP V0, addr (R107). -/
  | jpV0 (addr : Addr)
  /-- CXKK RND Vx, kk (R141). -/
  | rnd (x : Reg) (kk : Byte)
  /-- DXYN DRW Vx, Vy, n (R172). -/
  | drw (x y : Reg) (n : BitVec 4)
  /-- EX9E SKP Vx (R190). -/
  | skp (x : Reg)
  /-- EXA1 SKNP Vx (R191). -/
  | sknp (x : Reg)
  /-- FX07 LD Vx, DT (R192). -/
  | ldFromDt (x : Reg)
  /-- FX0A LD Vx, K (R195). -/
  | ldKey (x : Reg)
  /-- FX15 LD DT, Vx (R197). -/
  | ldDt (x : Reg)
  /-- FX18 LD ST, Vx (R198). -/
  | ldSt (x : Reg)
  /-- FX1E ADD I, Vx (R151). -/
  | addI (x : Reg)
  /-- FX29 LD F, Vx (R152). -/
  | ldFont (x : Reg)
  /-- FX33 LD B, Vx (R153). -/
  | ldBcd (x : Reg)
  /-- FX55 LD [I], Vx (R154). -/
  | saveRegs (x : Reg)
  /-- FX65 LD Vx, [I] (R155). -/
  | loadRegs (x : Reg)
deriving DecidableEq, Repr

/-- Why a word, or a string of bytes, is no instruction: the six spaces of unrecognised words of R77, and a string
shorter than the two bytes of R71. -/
inductive Unrecognised where
  /-- Class 0, and the word is neither 0x00E0 nor 0x00EE. -/
  | class0
  /-- Class 5 with n ≠ 0. -/
  | class5
  /-- Class 8 with n none of the nine sub-operations. -/
  | class8
  /-- Class 9 with n ≠ 0. -/
  | class9
  /-- Class E with kk neither 0x9E nor 0xA1. -/
  | classE
  /-- Class F with kk none of the nine function codes. -/
  | classF
  /-- Fewer than two bytes; no fetch of the machine gives this. -/
  | truncated
deriving DecidableEq, Repr

end Sys2Proof
end

