-- ==== Sys2Proof/WellFormed.lean ====
section
/-! DEFINITION. The checks on what the outside world hands to the machine. An instruction needs none: the type of each
operand has exactly the values of its field (30_encoding.md R72). The configuration and the program image are plain
data and are checked here. -/

namespace Sys2Proof

/-- The font lies inside the reserved region: FONT_BASE + 80 <= 0x200 (R7). -/
def Config.fontFits (c : Config) : Bool := decide (c.fontBase + fontSize ≤ progBase)

/-- FONT_DATA is 80 bytes, 16 glyphs of 5 (R8). -/
def Config.fontWhole (c : Config) : Bool := decide (c.fontData.length = fontSize)

/-- A configuration the spec allows (R7, R8). -/
def Config.wf (c : Config) : Bool := c.fontFits && c.fontWhole

/-- A program image that `init` accepts: at most 3584 bytes, and no lower bound (R260). -/
def imageFits (prog : List Byte) : Bool := decide (prog.length ≤ maxProgLen)

end Sys2Proof
end

