-- ==== Sys2Proof/Decode.lean ====
section
/-! DEFINITION. Decoding and encoding (30_encoding.md). The decoder is R74's two-level dispatch on the class nibble, then on
n, kk or the whole word; it is total, and it names the space of every word it rejects (R77). The encoder is written
from the layouts of R73, and the opcode table from spec/opcode_table.json. -/

namespace Sys2Proof

/-! ## The fields of a word (R72) -/

/-- The class, w[15:12]. -/
def classOf (w : Word16) : BitVec 4 := w.extractLsb' 12 4

/-- The address field, w[11:0]. -/
def addrOf (w : Word16) : Addr := w.extractLsb' 0 12

/-- The register number in w[11:8]. -/
def xOf (w : Word16) : Reg := (w.extractLsb' 8 4).toFin

/-- The register number in w[7:4]. -/
def yOf (w : Word16) : Reg := (w.extractLsb' 4 4).toFin

/-- The nibble w[3:0]. -/
def nOf (w : Word16) : BitVec 4 := w.extractLsb' 0 4

/-- The byte w[7:0]. -/
def kkOf (w : Word16) : Byte := w.extractLsb' 0 8

/-! ## Decode (R74) -/

/-- The nine sub-operations of class 8. -/
def decodeClass8 (w : Word16) : Except Unrecognised Instr :=
  match nOf w with
  | 0x0#4 => .ok (.ldReg (xOf w) (yOf w))
  | 0x1#4 => .ok (.orReg (xOf w) (yOf w))
  | 0x2#4 => .ok (.andReg (xOf w) (yOf w))
  | 0x3#4 => .ok (.xorReg (xOf w) (yOf w))
  | 0x4#4 => .ok (.addReg (xOf w) (yOf w))
  | 0x5#4 => .ok (.sub (xOf w) (yOf w))
  | 0x6#4 => .ok (.shr (xOf w) (yOf w))
  | 0x7#4 => .ok (.subn (xOf w) (yOf w))
  | 0xE#4 => .ok (.shl (xOf w) (yOf w))
  | _ => .error .class8

/-- The two key tests of class E. -/
def decodeClassE (w : Word16) : Except Unrecognised Instr :=
  match kkOf w with
  | 0x9E#8 => .ok (.skp (xOf w))
  | 0xA1#8 => .ok (.sknp (xOf w))
  | _ => .error .classE

/-- The nine function codes of class F. -/
def decodeClassF (w : Word16) : Except Unrecognised Instr :=
  match kkOf w with
  | 0x07#8 => .ok (.ldFromDt (xOf w))
  | 0x0A#8 => .ok (.ldKey (xOf w))
  | 0x15#8 => .ok (.ldDt (xOf w))
  | 0x18#8 => .ok (.ldSt (xOf w))
  | 0x1E#8 => .ok (.addI (xOf w))
  | 0x29#8 => .ok (.ldFont (xOf w))
  | 0x33#8 => .ok (.ldBcd (xOf w))
  | 0x55#8 => .ok (.saveRegs (xOf w))
  | 0x65#8 => .ok (.loadRegs (xOf w))
  | _ => .error .classF

/-- The instruction a word stands for, or the space of unrecognised words it lies in (R74, R77). A class-0 word is
matched whole, and n must be 0 in classes 5 and 9 (the spec's decisions D13 and D14). -/
def decodeWord (w : Word16) : Except Unrecognised Instr :=
  match classOf w with
  | 0x0#4 => if w = 0x00E0#16 then .ok .cls else if w = 0x00EE#16 then .ok .ret else .error .class0
  | 0x1#4 => .ok (.jp (addrOf w))
  | 0x2#4 => .ok (.call (addrOf w))
  | 0x3#4 => .ok (.seImm (xOf w) (kkOf w))
  | 0x4#4 => .ok (.sneImm (xOf w) (kkOf w))
  | 0x5#4 => if nOf w = 0 then .ok (.seReg (xOf w) (yOf w)) else .error .class5
  | 0x6#4 => .ok (.ldImm (xOf w) (kkOf w))
  | 0x7#4 => .ok (.addImm (xOf w) (kkOf w))
  | 0x8#4 => decodeClass8 w
  | 0x9#4 => if nOf w = 0 then .ok (.sneReg (xOf w) (yOf w)) else .error .class9
  | 0xA#4 => .ok (.ldI (addrOf w))
  | 0xB#4 => .ok (.jpV0 (addrOf w))
  | 0xC#4 => .ok (.rnd (xOf w) (kkOf w))
  | 0xD#4 => .ok (.drw (xOf w) (yOf w) (nOf w))
  | 0xE#4 => decodeClassE w
  | _ => decodeClassF w

/-- Two bytes as a word, the first the more significant (R56). -/
def wordOfBytes (hi lo : Byte) : Word16 := hi ++ lo

/-- Decode the instruction at the head of a string of bytes and give the rest back: always two bytes, the first the
high byte (R71, R56). -/
def decodeBytes : List Byte → Except Unrecognised (Instr × List Byte)
  | hi :: lo :: rest => (decodeWord (wordOfBytes hi lo)).map fun i => (i, rest)
  | _ => .error .truncated

/-- The two bytes, in memory order, of the instruction whose low `nbits` bits are those of `w` and whose other bits
are 0. -/
def tableBytes (nbits w : Nat) : Byte × Byte :=
  let word := BitVec.ofNat 16 (w % 2 ^ nbits)
  (word.extractLsb' 8 8, word.extractLsb' 0 8)

/-- The instruction the decoder reads from a word numbered as spec/opcode_table.json numbers it. -/
def decodeTableWord (nbits w : Nat) : Option Instr :=
  match decodeBytes [(tableBytes nbits w).1, (tableBytes nbits w).2] with
  | .ok (i, _) => some i
  | .error _ => none

/-! ## Encode (R73) -/

/-- A register number as its 4-bit field. -/
def regBits (r : Reg) : BitVec 4 := BitVec.ofFin r

/-- Format A: class and a 12-bit address. -/
def formatA (c : BitVec 4) (addr : Addr) : Word16 := c ++ addr

/-- Format XKK: class, register, immediate byte. -/
def formatXKK (c : BitVec 4) (x : Reg) (kk : Byte) : Word16 := c ++ regBits x ++ kk

/-- Formats XY and XYN: class, two registers, a nibble that is a function code or the row count. -/
def formatXYN (c : BitVec 4) (x y : Reg) (n : BitVec 4) : Word16 := c ++ regBits x ++ regBits y ++ n

/-- Format X: class, register, function byte. -/
def formatX (c : BitVec 4) (x : Reg) (f : Byte) : Word16 := formatXKK c x f

/-- The word of an instruction. -/
def encode : Instr → Word16
  | .cls => 0x00E0
  | .ret => 0x00EE
  | .jp addr => formatA 0x1 addr
  | .call addr => formatA 0x2 addr
  | .seImm x kk => formatXKK 0x3 x kk
  | .sneImm x kk => formatXKK 0x4 x kk
  | .seReg x y => formatXYN 0x5 x y 0x0
  | .ldImm x kk => formatXKK 0x6 x kk
  | .addImm x kk => formatXKK 0x7 x kk
  | .ldReg x y => formatXYN 0x8 x y 0x0
  | .orReg x y => formatXYN 0x8 x y 0x1
  | .andReg x y => formatXYN 0x8 x y 0x2
  | .xorReg x y => formatXYN 0x8 x y 0x3
  | .addReg x y => formatXYN 0x8 x y 0x4
  | .sub x y => formatXYN 0x8 x y 0x5
  | .shr x y => formatXYN 0x8 x y 0x6
  | .subn x y => formatXYN 0x8 x y 0x7
  | .shl x y => formatXYN 0x8 x y 0xE
  | .sneReg x y => formatXYN 0x9 x y 0x0
  | .ldI addr => formatA 0xA addr
  | .jpV0 addr => formatA 0xB addr
  | .rnd x kk => formatXKK 0xC x kk
  | .drw x y n => formatXYN 0xD x y n
  | .skp x => formatX 0xE x 0x9E
  | .sknp x => formatX 0xE x 0xA1
  | .ldFromDt x => formatX 0xF x 0x07
  | .ldKey x => formatX 0xF x 0x0A
  | .ldDt x => formatX 0xF x 0x15
  | .ldSt x => formatX 0xF x 0x18
  | .addI x => formatX 0xF x 0x1E
  | .ldFont x => formatX 0xF x 0x29
  | .ldBcd x => formatX 0xF x 0x33
  | .saveRegs x => formatX 0xF x 0x55
  | .loadRegs x => formatX 0xF x 0x65

/-! ## The opcode table (spec/opcode_table.json) -/

/-- A row of the table: a word belongs to it when its bits under the mask are those of the pattern. -/
structure OpcodeRow where
  mnemonic : String
  pattern : Word16
  mask : Word16
deriving DecidableEq, Repr

/-- The row of an instruction. -/
def Instr.opcodeRow : Instr → OpcodeRow
  | .cls => ⟨"CLS", 0x00E0, 0xFFFF⟩
  | .ret => ⟨"RET", 0x00EE, 0xFFFF⟩
  | .jp _ => ⟨"JP_addr", 0x1000, 0xF000⟩
  | .call _ => ⟨"CALL_addr", 0x2000, 0xF000⟩
  | .seImm _ _ => ⟨"SE_Vx__kk", 0x3000, 0xF000⟩
  | .sneImm _ _ => ⟨"SNE_Vx__kk", 0x4000, 0xF000⟩
  | .seReg _ _ => ⟨"SE_Vx__Vy", 0x5000, 0xF00F⟩
  | .ldImm _ _ => ⟨"LD_Vx__kk", 0x6000, 0xF000⟩
  | .addImm _ _ => ⟨"ADD_Vx__kk", 0x7000, 0xF000⟩
  | .ldReg _ _ => ⟨"LD_Vx__Vy", 0x8000, 0xF00F⟩
  | .orReg _ _ => ⟨"OR_Vx__Vy", 0x8001, 0xF00F⟩
  | .andReg _ _ => ⟨"AND_Vx__Vy", 0x8002, 0xF00F⟩
  | .xorReg _ _ => ⟨"XOR_Vx__Vy", 0x8003, 0xF00F⟩
  | .addReg _ _ => ⟨"ADD_Vx__Vy", 0x8004, 0xF00F⟩
  | .sub _ _ => ⟨"SUB_Vx__Vy", 0x8005, 0xF00F⟩
  | .shr _ _ => ⟨"SHR_Vx", 0x8006, 0xF00F⟩
  | .subn _ _ => ⟨"SUBN_Vx__Vy", 0x8007, 0xF00F⟩
  | .shl _ _ => ⟨"SHL_Vx", 0x800E, 0xF00F⟩
  | .sneReg _ _ => ⟨"SNE_Vx__Vy", 0x9000, 0xF00F⟩
  | .ldI _ => ⟨"LD_I__addr", 0xA000, 0xF000⟩
  | .jpV0 _ => ⟨"JP_V0__addr", 0xB000, 0xF000⟩
  | .rnd _ _ => ⟨"RND_Vx__kk", 0xC000, 0xF000⟩
  | .drw _ _ _ => ⟨"DRW_Vx__Vy__n", 0xD000, 0xF000⟩
  | .skp _ => ⟨"SKP_Vx", 0xE09E, 0xF0FF⟩
  | .sknp _ => ⟨"SKNP_Vx", 0xE0A1, 0xF0FF⟩
  | .ldFromDt _ => ⟨"LD_Vx__DT", 0xF007, 0xF0FF⟩
  | .ldKey _ => ⟨"LD_Vx__K", 0xF00A, 0xF0FF⟩
  | .ldDt _ => ⟨"LD_DT__Vx", 0xF015, 0xF0FF⟩
  | .ldSt _ => ⟨"LD_ST__Vx", 0xF018, 0xF0FF⟩
  | .addI _ => ⟨"ADD_I__Vx", 0xF01E, 0xF0FF⟩
  | .ldFont _ => ⟨"LD_F__Vx", 0xF029, 0xF0FF⟩
  | .ldBcd _ => ⟨"LD_B__Vx", 0xF033, 0xF0FF⟩
  | .saveRegs _ => ⟨"LD__I___Vx", 0xF055, 0xF0FF⟩
  | .loadRegs _ => ⟨"LD_Vx___I", 0xF065, 0xF0FF⟩

/-- The whole table, first half: classes 0 to 8. -/
def opcodeTableLow : List OpcodeRow := [
  ⟨"CLS", 0x00E0, 0xFFFF⟩,
  ⟨"RET", 0x00EE, 0xFFFF⟩,
  ⟨"JP_addr", 0x1000, 0xF000⟩,
  ⟨"CALL_addr", 0x2000, 0xF000⟩,
  ⟨"SE_Vx__kk", 0x3000, 0xF000⟩,
  ⟨"SNE_Vx__kk", 0x4000, 0xF000⟩,
  ⟨"SE_Vx__Vy", 0x5000, 0xF00F⟩,
  ⟨"LD_Vx__kk", 0x6000, 0xF000⟩,
  ⟨"ADD_Vx__kk", 0x7000, 0xF000⟩,
  ⟨"LD_Vx__Vy", 0x8000, 0xF00F⟩,
  ⟨"OR_Vx__Vy", 0x8001, 0xF00F⟩,
  ⟨"AND_Vx__Vy", 0x8002, 0xF00F⟩,
  ⟨"XOR_Vx__Vy", 0x8003, 0xF00F⟩,
  ⟨"ADD_Vx__Vy", 0x8004, 0xF00F⟩,
  ⟨"SUB_Vx__Vy", 0x8005, 0xF00F⟩,
  ⟨"SHR_Vx", 0x8006, 0xF00F⟩,
  ⟨"SUBN_Vx__Vy", 0x8007, 0xF00F⟩,
  ⟨"SHL_Vx", 0x800E, 0xF00F⟩]

/-- The whole table, second half: classes 9 to F. -/
def opcodeTableHigh : List OpcodeRow := [
  ⟨"SNE_Vx__Vy", 0x9000, 0xF00F⟩,
  ⟨"LD_I__addr", 0xA000, 0xF000⟩,
  ⟨"JP_V0__addr", 0xB000, 0xF000⟩,
  ⟨"RND_Vx__kk", 0xC000, 0xF000⟩,
  ⟨"DRW_Vx__Vy__n", 0xD000, 0xF000⟩,
  ⟨"SKP_Vx", 0xE09E, 0xF0FF⟩,
  ⟨"SKNP_Vx", 0xE0A1, 0xF0FF⟩,
  ⟨"LD_Vx__DT", 0xF007, 0xF0FF⟩,
  ⟨"LD_Vx__K", 0xF00A, 0xF0FF⟩,
  ⟨"LD_DT__Vx", 0xF015, 0xF0FF⟩,
  ⟨"LD_ST__Vx", 0xF018, 0xF0FF⟩,
  ⟨"ADD_I__Vx", 0xF01E, 0xF0FF⟩,
  ⟨"LD_F__Vx", 0xF029, 0xF0FF⟩,
  ⟨"LD_B__Vx", 0xF033, 0xF0FF⟩,
  ⟨"LD__I___Vx", 0xF055, 0xF0FF⟩,
  ⟨"LD_Vx___I", 0xF065, 0xF0FF⟩]

/-- The 34 rows of the table (R75). -/
def opcodeTable : List OpcodeRow := opcodeTableLow ++ opcodeTableHigh

/-- A word belongs to a row (R73). -/
def OpcodeRow.matchesWord (r : OpcodeRow) (w : Word16) : Bool := w &&& r.mask == r.pattern

/-- Two rows share no word: their patterns differ in a bit that both masks fix. -/
def OpcodeRow.disjointFrom (r q : OpcodeRow) : Bool := (r.pattern ^^^ q.pattern) &&& r.mask &&& q.mask != 0

end Sys2Proof
end

