-- ==== Sys2Proof/Machine/Defaults.lean ====
section
/-! DEFINITION. The default configuration (00_scope.md R6 to R9, 20_memory.md R55) and the contents of memory after
`init` (R50), which is also what an address that memory does not list reads as. -/

namespace Sys2Proof.Machine

/-- The default glyphs 0 to 7 (R55). -/
def defaultGlyphsLow : List Byte := [
  0xF0, 0x90, 0x90, 0x90, 0xF0,  0x20, 0x60, 0x20, 0x20, 0x70,
  0xF0, 0x10, 0xF0, 0x80, 0xF0,  0xF0, 0x10, 0xF0, 0x10, 0xF0,
  0x90, 0x90, 0xF0, 0x10, 0x10,  0xF0, 0x80, 0xF0, 0x10, 0xF0,
  0xF0, 0x80, 0xF0, 0x90, 0xF0,  0xF0, 0x10, 0x20, 0x40, 0x40]

/-- The default glyphs 8 to F (R55). -/
def defaultGlyphsHigh : List Byte := [
  0xF0, 0x90, 0xF0, 0x90, 0xF0,  0xF0, 0x90, 0xF0, 0x10, 0xF0,
  0xF0, 0x90, 0xF0, 0x90, 0x90,  0xE0, 0x90, 0xE0, 0x90, 0xE0,
  0xF0, 0x80, 0x80, 0x80, 0xF0,  0xE0, 0x90, 0x90, 0x90, 0xE0,
  0xF0, 0x80, 0xF0, 0x80, 0xF0,  0xF0, 0x80, 0xF0, 0x80, 0x80]

/-- The default configuration: the quirk on, the font at 0x050 with the conventional glyphs, 700 steps per second
(R6 to R9; assumption 2). -/
def defaultConfig : Config :=
  { quirkLogicVfReset := true, fontBase := 0x050, fontData := defaultGlyphsLow ++ defaultGlyphsHigh, ips := 700 }

/-- The byte at an address after `init` with an empty program: the font at FONT_BASE, 0x00 elsewhere (R50, R54). -/
def initByte (c : Config) (a : Nat) : Byte :=
  if c.fontBase ≤ a ∧ a < c.fontBase + fontSize then c.fontData.getD (a - c.fontBase) 0 else 0

end Sys2Proof.Machine
end

