-- ==== Sys2Proof/Machine/State.lean ====
section
/-! DEFINITION. The state of the CHIP-8 core (10_state.md R38, 60_exceptions.md R231, R241), its faults and refusals, and
the state after reset (70_reset_and_hazards.md R262). State is plain data. -/

namespace Sys2Proof.Machine

/-- Memory as the list of the bytes that differ from the contents after `init`, by rising address (R50;
assumption 8). -/
abbrev Memory := List Host.Cell

/-- The Display Buffer: 32 rows of 64 cells, a cell being true where the spec's byte is 1; row y, column x is
`d[y][x]` (R30). -/
abbrev Display := Vector (Vector Bool 64) 32

/-- The display with every cell 0. -/
def blankDisplay : Display := Vector.replicate 32 (Vector.replicate 64 false)

/-- The read-only copy of the registers that goes to the renderer (R247). -/
structure DebugSnapshot where
  v : Vector Byte 16
  i : Word16
  pc : Word16
  sp : Byte
  stack : Vector Word16 16
  dt : Byte
  st : Byte
deriving DecidableEq, Repr

/-- An output event, with the Display Buffer and the debug snapshot it delivers (R34, R173, R234, R241, R246). -/
inductive Output where
  /-- `display_changed`, raised by 00E0 and DXYN. -/
  | displayChanged (d : Display) (snap : DebugSnapshot)
  /-- `render_tick`, raised by every tick. -/
  | renderTick (d : Display) (snap : DebugSnapshot)
deriving DecidableEq, Repr

/-- The state of the machine. -/
structure State where
  /-- V0..VF (R20). -/
  v : Vector Byte 16
  /-- I (R23). -/
  i : Word16
  /-- PC (R24). -/
  pc : Word16
  /-- SP (R26). -/
  sp : Byte
  /-- STACK[0]..STACK[15] (R27). -/
  stack : Vector Word16 16
  /-- DT (R28). -/
  dt : Byte
  /-- ST (R29). -/
  st : Byte
  /-- DISP (R30). -/
  disp : Display
  /-- KEYS_CUR (R32). -/
  keysCur : KeyMask
  /-- KEYS_LAST (R33). -/
  keysLast : KeyMask
  /-- MEM (R50). -/
  mem : Memory
  /-- The run flag (R35). -/
  running : Bool
  /-- When the concrete scheduler last fired a step, in nanoseconds (R231, R37). -/
  tStep : Nat
  /-- When the concrete scheduler last fired a tick, in nanoseconds (R231, R37). -/
  tTick : Nat
  /-- The configuration inputs (R6 to R9). No event writes them. -/
  config : Config
  /-- The `rand_byte` input: the byte of the latest `Step(r)` event (R140, R230, R241). -/
  rand : Byte
  /-- The model's own: the events the environment has already chosen, oldest first (assumption 4). -/
  inputs : List Event
  /-- The model's own: how many events have been taken; the argument of the free value (assumption 4). -/
  eventCount : Nat
  /-- The model's own: a stop signal has ended the run (R238; assumption 6). -/
  ended : Bool
  /-- The run's output history, newest first (R34; assumption 7). -/
  outputs : List Output
deriving DecidableEq, Repr

/-- What stops the machine with an error. No instruction faults (R220, R223). -/
inductive Fault where
  /-- The program image is longer than 3584 bytes or unreadable. Raised by `State.init` alone, before any event (R260).
  Safe: it is the spec's own outcome. -/
  | loadError
deriving DecidableEq, Repr

/-- What the model declines to do. -/
inductive Refusal where
  /-- An instruction that has no meaning yet. Raised by an arm of `exec`; no arm does. Safe. -/
  | notModelled (mnemonic : String)
  /-- The configuration is outside the range of R7 or R8. Raised by `State.init` alone. Safe: the spec defines no machine
  for such a configuration. -/
  | configOutOfRange
deriving DecidableEq, Repr

/-- The state right after `init` with the default configuration and an empty program (R262). The fields that R262 does
not list are the model's choice (assumptions 3, 4, 6, 7 and 17). -/
def State.reset : State where
  v := Vector.replicate 16 0
  i := 0
  pc := 0x200
  sp := 0
  stack := Vector.replicate 16 0
  dt := 0
  st := 0
  disp := blankDisplay
  keysCur := 0
  keysLast := 0
  mem := []
  running := false
  tStep := 0
  tTick := 0
  config := defaultConfig
  rand := 0
  inputs := []
  eventCount := 0
  ended := false
  outputs := []

end Sys2Proof.Machine
end

