-- ==== Sys2Proof/Machine/Ops.lean ====
section
/-! DEFINITION. The named operations over memory, registers, the stack, the display and the output history. Every meaning
reads and writes the state through them. This hardware takes no exception (60_exceptions.md R220, R223), so no operation
here enters or leaves one. -/

namespace Sys2Proof.Machine

/-! ## Memory as a list in canonical form -/

/-- The byte listed for an address. -/
def Memory.lookup : Memory → Nat → Option Byte
  | [], _ => none
  | (a, b) :: m, k => if a = k then some b else Memory.lookup m k

/-- Read a byte: the listed one, else what the address holds after `init` (R50). -/
def Memory.read (c : Config) (m : Memory) (a : Nat) : Byte := (Memory.lookup m a).getD (initByte c a)

/-- List a byte at its place. -/
def Memory.put : Memory → Nat → Byte → Memory
  | [], a, b => [(a, b)]
  | (a', b') :: m, a, b =>
    if a < a' then (a, b) :: (a', b') :: m
    else if a = a' then (a, b) :: m
    else (a', b') :: Memory.put m a b

/-- Take an address off the list. -/
def Memory.erase (m : Memory) (a : Nat) : Memory := m.filter fun p => p.1 != a

/-- Write a byte, keeping the canonical form: a byte equal to the contents after `init` is not listed. -/
def Memory.write (c : Config) (m : Memory) (a : Nat) (b : Byte) : Memory :=
  if b = initByte c a then Memory.erase m a else Memory.put m a b

/-- The canonical form: addresses strictly rise and lie in the address space, and no entry equals what its address
reads as when it is not listed. -/
abbrev Memory.wf (c : Config) (m : Memory) : Prop :=
  m.Pairwise (fun p q => p.1 < q.1) ∧ ∀ p ∈ m, p.1 < memSize ∧ p.2 ≠ initByte c p.1

/-- Write a string of bytes from an address on (R53, R262). -/
def Memory.load (c : Config) (m : Memory) (a : Nat) : List Byte → Memory
  | [] => m
  | b :: bs => Memory.load c (Memory.write c m a b) (a + 1) bs

/-! ## Bytes of the machine's memory -/

/-- MemRead(a, 1): the byte at `a mod 4096` (R51, R11). -/
def State.readByte (s : State) (a : Nat) : Byte := Memory.read s.config s.mem (a % memSize)

/-- MemWrite(a, 1, b): write the byte at `a mod 4096` (R51, R11). -/
def State.writeByte (s : State) (a : Nat) (b : Byte) : State :=
  { s with mem := Memory.write s.config s.mem (a % memSize) b }

/-- The big-endian word at PC: the bytes at PC and PC + 1, each address mod 4096 (R56). -/
def State.fetchWord (s : State) : Word16 := wordOfBytes (s.readByte s.pc.toNat) (s.readByte (s.pc.toNat + 1))

/-! ## Registers -/

/-- V[x] (R20). -/
def State.getV (s : State) (x : Reg) : Byte := s.v[x]

/-- V[x] <- b. -/
def State.setV (s : State) (x : Reg) (b : Byte) : State := { s with v := s.v.set x b }

/-- I <- a (R23). -/
def State.setI (s : State) (a : Word16) : State := { s with i := a }

/-- pc <- a (R24). -/
def State.setPc (s : State) (a : Word16) : State := { s with pc := a }

/-- pc <- pc + 2: the advance at fetch, and a taken skip (R25). -/
def State.advancePc (s : State) : State := s.setPc (s.pc + 2)

/-- pc <- pc - 2: FX0A when no key was released (R25, R195). -/
def State.rewindPc (s : State) : State := s.setPc (s.pc - 2)

/-- Skip the next word if the condition holds ("PC += 2 if condition holds"). -/
def State.skipIf (s : State) (cond : Bool) : State := if cond then s.advancePc else s

/-- SP <- n (R26). -/
def State.setSp (s : State) (n : Byte) : State := { s with sp := n }

/-- STACK[j] (R27). -/
def State.getSlot (s : State) (j : Fin 16) : Word16 := s.stack[j]

/-- STACK[j] <- w (R27). -/
def State.setSlot (s : State) (j : Fin 16) (w : Word16) : State := { s with stack := s.stack.set j w }

/-- DT <- b (R28). -/
def State.setDt (s : State) (b : Byte) : State := { s with dt := b }

/-- ST <- b (R29). -/
def State.setSt (s : State) (b : Byte) : State := { s with st := b }

/-- The `rand_byte` input takes the byte of a `Step(r)` event (R230, R241). -/
def State.setRand (s : State) (r : Byte) : State := { s with rand := r }

/-! ## Display and outputs -/

/-- DISP[y][x], and false outside the grid. -/
def Display.cell (d : Display) (x y : Nat) : Bool :=
  if h : x < dispW ∧ y < dispH then (d[y]'h.2)[x]'h.1 else false

/-- DISP[y][x] <- DISP[y][x] ^ 1 inside the grid, nothing outside it. -/
def Display.flip (d : Display) (x y : Nat) : Display :=
  if h : x < dispW ∧ y < dispH then d.set y ((d[y]'h.2).set x (!(d[y]'h.2)[x]'h.1) h.1) h.2 else d

/-- Replace the Display Buffer. -/
def State.setDisp (s : State) (d : Display) : State := { s with disp := d }

/-- The debug snapshot (R247). -/
def State.debugSnapshot (s : State) : DebugSnapshot :=
  { v := s.v, i := s.i, pc := s.pc, sp := s.sp, stack := s.stack, dt := s.dt, st := s.st }

/-- Record an output event in the history. -/
def State.emit (s : State) (o : Output) : State := { s with outputs := o :: s.outputs }

/-- signal display_changed: the renderer gets the whole buffer (R34, R173). -/
def State.signalDisplayChanged (s : State) : State := s.emit (.displayChanged s.disp s.debugSnapshot)

/-- signal render_tick: the renderer gets the buffer and the snapshot (R234). -/
def State.signalRenderTick (s : State) : State := s.emit (.renderTick s.disp s.debugSnapshot)

/-- `sound_active`, the informative output ST ≠ 0 (R29, R237). -/
def State.soundActive (s : State) : Bool := s.st != 0

/-! ## I-relative operands and block moves between registers and memory -/

/-- The address I + k of an I-relative operand; memory reduces it mod 4096 (42_index_memory.md, R51). -/
def State.indexed (s : State) (k : Nat) : Nat := s.i.toNat + k

/-- MEM[I + k] <- V[k] for k = 0, .., n − 1 in ascending order (R154). -/
def State.storeRegs (s : State) : Nat → State
  | 0 => s
  | k + 1 => (s.storeRegs k).writeByte (s.indexed k) (s.getV (Fin.ofNat 16 k))

/-- V[k] <- MEM[I + k] for k = 0, .., n − 1 in ascending order (R155). -/
def State.loadRegs (s : State) : Nat → State
  | 0 => s
  | k + 1 => (s.loadRegs k).setV (Fin.ofNat 16 k) (s.readByte (s.indexed k))

/-! ## Outcomes -/

/-- Go on from the next state of an outcome; a fault or a refusal stays. -/
def andThen (o : Host.Outcome State Fault Refusal) (f : State → Host.Outcome State Fault Refusal) :
    Host.Outcome State Fault Refusal :=
  match o with
  | .next s => f s
  | .fault r => .fault r
  | .refused r => .refused r

end Sys2Proof.Machine
end

