-- ==== Sys2Proof/Machine/Operands.lean ====
section
/-! DEFINITION. The operand forms: absolute addresses, stack slots, key numbers, glyph addresses,
start cells, decimal digits and the key scan. -/

namespace Sys2Proof.Machine

/-- zext_16(addr): an address field as a 16-bit value (R72). -/
def absolute (addr : Addr) : Word16 := addr.setWidth 16

/-- The target of BNNN: addr + V0 as a 16-bit value, not reduced mod 4096 (R107). -/
def absolutePlus (addr : Addr) (b : Byte) : Word16 := absolute addr + b.setWidth 16

/-- The stack slot of a stack pointer: SP mod 16 (R26). -/
def stackSlot (sp : Byte) : Fin 16 := Fin.ofNat 16 sp.toNat

/-- The number of the key, or of the glyph, in a register: Vx & 0xF (R193, R152). -/
def lowNibble (b : Byte) : Fin 16 := Fin.ofNat 16 b.toNat

/-- Bit k of a key mask: key k is down (R32). -/
def keyDown (m : KeyMask) (k : Nat) : Bool := m.getLsbD k

/-- The address of a glyph: FONT_BASE + (Vx & 0xF) * 5 (R152). -/
def glyphAddr (c : Config) (b : Byte) : Word16 := BitVec.ofNat 16 (c.fontBase + (lowNibble b).val * 5)

/-- The column a sprite starts at: Vx mod 64 (R172). -/
def startColumn (b : Byte) : Nat := b.toNat % dispW

/-- The row a sprite starts at: Vy mod 32 (R172). -/
def startRow (b : Byte) : Nat := b.toNat % dispH

/-- The hundreds digit (R153). -/
def hundreds (b : Byte) : Byte := BitVec.ofNat 8 (b.toNat / 100)

/-- The tens digit (R153). -/
def tens (b : Byte) : Byte := BitVec.ofNat 8 (b.toNat / 10 % 10)

/-- The units digit (R153). -/
def units (b : Byte) : Byte := BitVec.ofNat 8 (b.toNat % 10)

/-- Key k is released: down in the last mask and up in the current one (R194). -/
def keyReleased (last cur : KeyMask) (k : Nat) : Bool := keyDown last k && !keyDown cur k

/-- The released key that FX0A finds: the lowest of keys 0x0..0xE, key 0xF never (R195). -/
def releasedKey (last cur : KeyMask) : Option Nat := (List.range 15).find? fun k => keyReleased last cur k

end Sys2Proof.Machine
end

