-- ==== Sys2Proof/Machine/Flags.lean ====
section
/-! DEFINITION. The arithmetic of the 8-bit registers and the flag VF: carry, NOT-borrow, the bit shifted out, the
collision flag, and the quirk of the logic instructions (41_alu.md R122, 10_state.md R21). -/

namespace Sys2Proof.Machine

/-- A condition as a flag byte, 1 or 0. -/
def flagByte (cond : Bool) : Byte := if cond then 1 else 0

/-- The exact sum reduced mod 256 (R122). -/
def sum8 (a b : Byte) : Byte := BitVec.ofNat 8 (a.toNat + b.toNat)

/-- The carry: the exact sum exceeds 255 (R122). -/
def carry (a b : Byte) : Byte := flagByte (decide (a.toNat + b.toNat > 255))

/-- The exact difference reduced mod 256 (R122). -/
def diff8 (a b : Byte) : Byte := BitVec.ofNat 8 (a.toNat + 256 - b.toNat)

/-- NOT-borrow: the minuend is at least the subtrahend (R122). -/
def notBorrow (a b : Byte) : Byte := flagByte (decide (a.toNat ≥ b.toNat))

/-- Shift right by one (R131). -/
def shiftRight8 (a : Byte) : Byte := a >>> 1

/-- The bit a right shift drops: old bit 0 (R131). -/
def bitShiftedRight (a : Byte) : Byte := a &&& 1

/-- Shift left by one, truncated (R133). -/
def shiftLeft8 (a : Byte) : Byte := a <<< 1

/-- The bit a left shift drops: old bit 7 (R133). -/
def bitShiftedLeft (a : Byte) : Byte := a >>> 7 &&& 1

/-- Write the result to Vx, and VF last, so that the flag survives when x = 0xF (R21, R122; the spec's decision D4). -/
def State.setResultAndFlag (s : State) (x : Reg) (result flag : Byte) : State := (s.setV x result).setV VF flag

/-- Write the result of a logic instruction to Vx, then 0 to VF where the quirk asks for it (R124, R6). -/
def State.setLogicResult (s : State) (x : Reg) (result : Byte) : State :=
  if s.config.quirkLogicVfReset then (s.setV x result).setV VF 0 else s.setV x result

end Sys2Proof.Machine
end

