-- ==== Sys2Proof/Machine/Alu.lean ====
section
/-! DEFINITION. Register loads, arithmetic, logic, shifts and random (41_alu.md). -/

namespace Sys2Proof.Machine

/-- 6XKK LD Vx, kk (R120). -/
def execLdImm (x : Reg) (kk : Byte) (s : State) : Host.Outcome State Fault Refusal := .next (s.setV x kk)

/-- 7XKK ADD Vx, kk: no carry flag (R121). -/
def execAddImm (x : Reg) (kk : Byte) (s : State) : Host.Outcome State Fault Refusal := .next (s.setV x (sum8 (s.getV x) kk))

/-- 8XY0 LD Vx, Vy (R123). -/
def execLdReg (x y : Reg) (s : State) : Host.Outcome State Fault Refusal := .next (s.setV x (s.getV y))

/-- 8XY1 OR Vx, Vy (R124). -/
def execOrReg (x y : Reg) (s : State) : Host.Outcome State Fault Refusal :=
  .next (s.setLogicResult x (s.getV x ||| s.getV y))

/-- 8XY2 AND Vx, Vy (R125). -/
def execAndReg (x y : Reg) (s : State) : Host.Outcome State Fault Refusal :=
  .next (s.setLogicResult x (s.getV x &&& s.getV y))

/-- 8XY3 XOR Vx, Vy (R126). -/
def execXorReg (x y : Reg) (s : State) : Host.Outcome State Fault Refusal :=
  .next (s.setLogicResult x (s.getV x ^^^ s.getV y))

/-- 8XY4 ADD Vx, Vy with carry (R128). -/
def execAddReg (x y : Reg) (s : State) : Host.Outcome State Fault Refusal :=
  .next (s.setResultAndFlag x (sum8 (s.getV x) (s.getV y)) (carry (s.getV x) (s.getV y)))

/-- 8XY5 SUB Vx, Vy: Vx − Vy with NOT-borrow (R129). -/
def execSub (x y : Reg) (s : State) : Host.Outcome State Fault Refusal :=
  .next (s.setResultAndFlag x (diff8 (s.getV x) (s.getV y)) (notBorrow (s.getV x) (s.getV y)))

/-- 8XY6 SHR Vx; y is not read (R131; the spec's decision D10). -/
def execShr (x _y : Reg) (s : State) : Host.Outcome State Fault Refusal :=
  .next (s.setResultAndFlag x (shiftRight8 (s.getV x)) (bitShiftedRight (s.getV x)))

/-- 8XY7 SUBN Vx, Vy: Vy − Vx with NOT-borrow (R132). -/
def execSubn (x y : Reg) (s : State) : Host.Outcome State Fault Refusal :=
  .next (s.setResultAndFlag x (diff8 (s.getV y) (s.getV x)) (notBorrow (s.getV y) (s.getV x)))

/-- 8XYE SHL Vx; y is not read (R133; the spec's decision D10). -/
def execShl (x _y : Reg) (s : State) : Host.Outcome State Fault Refusal :=
  .next (s.setResultAndFlag x (shiftLeft8 (s.getV x)) (bitShiftedLeft (s.getV x)))

/-- CXKK RND Vx, kk: the random byte of this step, masked (R141, R140). -/
def execRnd (x : Reg) (kk : Byte) (s : State) : Host.Outcome State Fault Refusal := .next (s.setV x (s.rand &&& kk))

end Sys2Proof.Machine
end

