-- ==== Sys2Proof/Machine/Control.lean ====
section
/-! DEFINITION. Control flow (40_control_flow.md). PC is already advanced when a meaning runs (30_encoding.md R70). -/

namespace Sys2Proof.Machine

/-- 00EE RET: SP <- SP - 1, pc <- STACK[SP mod 16] (R100). -/
def execRet (s : State) : Host.Outcome State Fault Refusal :=
  let s := s.setSp (s.sp - 1)
  .next (s.setPc (s.getSlot (stackSlot s.sp)))

/-- 1NNN JP addr (R101). -/
def execJp (addr : Addr) (s : State) : Host.Outcome State Fault Refusal := .next (s.setPc (absolute addr))

/-- 2NNN CALL addr: STACK[SP mod 16] <- pc, SP <- SP + 1, pc <- addr (R102). -/
def execCall (addr : Addr) (s : State) : Host.Outcome State Fault Refusal :=
  let s := s.setSlot (stackSlot s.sp) s.pc
  let s := s.setSp (s.sp + 1)
  .next (s.setPc (absolute addr))

/-- 3XKK SE Vx, kk (R103). -/
def execSeImm (x : Reg) (kk : Byte) (s : State) : Host.Outcome State Fault Refusal := .next (s.skipIf (s.getV x == kk))

/-- 4XKK SNE Vx, kk (R104). -/
def execSneImm (x : Reg) (kk : Byte) (s : State) : Host.Outcome State Fault Refusal := .next (s.skipIf (s.getV x != kk))

/-- 5XY0 SE Vx, Vy (R105). -/
def execSeReg (x y : Reg) (s : State) : Host.Outcome State Fault Refusal := .next (s.skipIf (s.getV x == s.getV y))

/-- 9XY0 SNE Vx, Vy (R106). -/
def execSneReg (x y : Reg) (s : State) : Host.Outcome State Fault Refusal := .next (s.skipIf (s.getV x != s.getV y))

/-- BNNN JP V0, addr: pc <- addr + V0 (R107). -/
def execJpV0 (addr : Addr) (s : State) : Host.Outcome State Fault Refusal := .next (s.setPc (absolutePlus addr (s.getV 0)))

end Sys2Proof.Machine
end

