-- ==== Sys2Proof/Machine/Draw.lean ====
section
/-! DEFINITION. The display (43_display.md). -/

namespace Sys2Proof.Machine

/-- The display being drawn on and the collision found so far (R172). -/
structure Canvas where
  disp : Display
  collision : Bool
deriving DecidableEq, Repr

/-- Draw one pixel: nothing off the grid or for a 0 bit; else note a collision from the cell as it stands, then flip the
cell (R172). -/
def Canvas.plot (cv : Canvas) (px py : Nat) (lit : Bool) : Canvas :=
  if px < dispW ∧ py < dispH ∧ lit = true then
    { disp := cv.disp.flip px py, collision := cv.collision || cv.disp.cell px py }
  else cv

/-- Draw the first `n` pixels of a row byte from column x0 of row py on; bit 7 is the leftmost (R171). -/
def Canvas.plotRow (cv : Canvas) (row : Byte) (x0 py : Nat) : Nat → Canvas
  | 0 => cv
  | c + 1 => (cv.plotRow row x0 py c).plot (x0 + c) py (row.getLsbD (7 - c))

/-- Draw the first `n` rows of the sprite at I from cell (x0, y0) on (R172). -/
def State.plotSprite (s : State) (x0 y0 : Nat) : Nat → Canvas
  | 0 => { disp := s.disp, collision := false }
  | r + 1 => (s.plotSprite x0 y0 r).plotRow (s.readByte (s.indexed r)) x0 (y0 + r) 8

/-- 00E0 CLS (R170). -/
def execCls (s : State) : Host.Outcome State Fault Refusal := .next (s.setDisp blankDisplay).signalDisplayChanged

/-- DXYN DRW Vx, Vy, n: all cells, then VF, then the signal (R172, R173). -/
def execDrw (x y : Reg) (n : BitVec 4) (s : State) : Host.Outcome State Fault Refusal :=
  let cv := s.plotSprite (startColumn (s.getV x)) (startRow (s.getV y)) n.toNat
  .next ((s.setDisp cv.disp).setV VF (flagByte cv.collision)).signalDisplayChanged

end Sys2Proof.Machine
end

