-- ==== Sys2Proof/Machine/IndexMemory.lean ====
section
/-! DEFINITION. The address register, the font, BCD, register save and load (42_index_memory.md). Every address is
reduced mod 4096 by the memory operations (R51). -/

namespace Sys2Proof.Machine

/-- ANNN LD I, addr (R150). -/
def execLdI (addr : Addr) (s : State) : Host.Outcome State Fault Refusal := .next (s.setI (absolute addr))

/-- FX1E ADD I, Vx: mod 2^16, no flag (R151). -/
def execAddI (x : Reg) (s : State) : Host.Outcome State Fault Refusal := .next (s.setI (s.i + (s.getV x).setWidth 16))

/-- FX29 LD F, Vx (R152). -/
def execLdFont (x : Reg) (s : State) : Host.Outcome State Fault Refusal := .next (s.setI (glyphAddr s.config (s.getV x)))

/-- FX33 LD B, Vx: the three decimal digits at I, I + 1, I + 2 (R153). -/
def execLdBcd (x : Reg) (s : State) : Host.Outcome State Fault Refusal :=
  let b := s.getV x
  let s := s.writeByte (s.indexed 0) (hundreds b)
  let s := s.writeByte (s.indexed 1) (tens b)
  .next (s.writeByte (s.indexed 2) (units b))

/-- FX55 LD [I], Vx: V0..Vx to memory, I unchanged (R154). -/
def execSaveRegs (x : Reg) (s : State) : Host.Outcome State Fault Refusal := .next (s.storeRegs (x.val + 1))

/-- FX65 LD Vx, [I]: V0..Vx from memory, I unchanged (R155). -/
def execLoadRegs (x : Reg) (s : State) : Host.Outcome State Fault Refusal := .next (s.loadRegs (x.val + 1))

end Sys2Proof.Machine
end

