-- ==== Sys2Proof/Machine/KeysTimers.lean ====
section
/-! DEFINITION. Key tests, the wait for a key release, and the timer registers (44_timers_input.md). -/

namespace Sys2Proof.Machine

/-- EX9E SKP Vx (R190, R193). -/
def execSkp (x : Reg) (s : State) : Host.Outcome State Fault Refusal :=
  .next (s.skipIf (keyDown s.keysCur (lowNibble (s.getV x)).val))

/-- EXA1 SKNP Vx (R191, R193). -/
def execSknp (x : Reg) (s : State) : Host.Outcome State Fault Refusal :=
  .next (s.skipIf (!keyDown s.keysCur (lowNibble (s.getV x)).val))

/-- FX07 LD Vx, DT (R192). -/
def execLdFromDt (x : Reg) (s : State) : Host.Outcome State Fault Refusal := .next (s.setV x s.dt)

/-- FX0A LD Vx, K: store the lowest released key, or rewind PC so that the next step runs this word again (R195). -/
def execLdKey (x : Reg) (s : State) : Host.Outcome State Fault Refusal :=
  match releasedKey s.keysLast s.keysCur with
  | some k => .next (s.setV x (BitVec.ofNat 8 k))
  | none => .next s.rewindPc

/-- FX15 LD DT, Vx (R197). -/
def execLdDt (x : Reg) (s : State) : Host.Outcome State Fault Refusal := .next (s.setDt (s.getV x))

/-- FX18 LD ST, Vx (R198). -/
def execLdSt (x : Reg) (s : State) : Host.Outcome State Fault Refusal := .next (s.setSt (s.getV x))

end Sys2Proof.Machine
end

