-- ==== Sys2Proof/Machine/Boot.lean ====
section
/-! DEFINITION. `init` and `run()`, the two calls of the Machine Facade before the first event
(70_reset_and_hazards.md R260 to R263, 60_exceptions.md R231). -/

namespace Sys2Proof.Machine

/-- The state right after `init` with a configuration and the bytes of a program: reset values everywhere, memory with the
font at FONT_BASE and the program at 0x200 (R262). -/
def State.initialised (c : Config) (prog : List Byte) : State :=
  { State.reset with config := c, mem := Memory.load c [] progBase prog }

/-- `init(prog_bytes, prog_len, config)`: a load error if the image is unreadable (`none`) or longer than 3584 bytes, else
the machine after init (R260, R262). -/
def State.init (c : Config) (prog : Option (List Byte)) : Host.Outcome State Fault Refusal :=
  if c.wf then
    match prog with
    | none => .fault .loadError
    | some bytes => if imageFits bytes then .next (State.initialised c bytes) else .fault .loadError
  else .refused .configOutOfRange

/-- `run()` sets the run flag (R35, R231, R263). -/
def State.run (s : State) : State := { s with running := true }

end Sys2Proof.Machine
end

