-- ==== Sys2Proof/Machine/Events.lean ====
section
/-! DEFINITION. The events of a run: the instruction step, the tick, the stop signal, and the order the environment gives
them (60_exceptions.md R230 to R238). -/

namespace Sys2Proof.Machine

/-! ## The instruction step (30_encoding.md R70) -/

/-- `Step(r)`: fetch the word at PC, advance PC by 2, decode, execute; an unrecognised word is a no-op (R70, R78). -/
def State.instrStep (s : State) (r : Byte) : Host.Outcome State Fault Refusal :=
  match decodeWord s.fetchWord with
  | .ok i => exec i (s.setRand r).advancePc
  | .error _ => .next (s.setRand r).advancePc

/-! ## The tick (R232 to R235) -/

/-- A timer one tick later: one less, floored at 0 (R232). -/
def timerTick (t : Byte) : Byte := if t.toNat > 0 then t - 1 else t

/-- Decrement both timers (R232). -/
def State.tickTimers (s : State) : State := { s with dt := timerTick s.dt, st := timerTick s.st }

/-- Refresh the Input Latch: last <- current, current <- the sample (R233). -/
def State.latchKeys (s : State) (m : KeyMask) : State := { s with keysLast := s.keysCur, keysCur := m }

/-- `Tick(m)`: timers, then the latch, then the signal to the renderer (R235). -/
def State.tick (s : State) (m : KeyMask) : State := (s.tickTimers.latchKeys m).signalRenderTick

/-! ## The stop signal (R238) -/

/-- The stop signal clears the run flag; the run is over (R238). -/
def State.stopRun (s : State) : State := { s with running := false, ended := true }

/-! ## Runs (R230) -/

/-- Fire one event. While the machine is not running no event fires (R35, R238). -/
def fireEvent (e : Event) (s : State) : Host.Outcome State Fault Refusal :=
  if s.running then
    match e with
    | .step r => s.instrStep r
    | .tick m => .next (s.tick m)
    | .stop => .next s.stopRun
  else .next s

/-- A bounded run: the state after a given sequence of events (R230, R266). -/
def runEvents : List Event → State → Host.Outcome State Fault Refusal
  | [], s => .next s
  | e :: es, s => andThen (fireEvent e s) (runEvents es)

/-- The next event: the one the environment has already chosen, else the free value with the next number (R230;
assumption 4). -/
def State.nextEvent (s : State) : Event :=
  match s.inputs with
  | e :: _ => e
  | [] => Config.freeEvent s.eventCount

/-- Take the next event off the environment's list and count it. -/
def State.takeEvent (s : State) : State := { s with inputs := s.inputs.tail, eventCount := s.eventCount + 1 }

/-- One move of the machine: the next event of a running machine; `run()` of one that has not run yet (R263); nothing once
a stop has ended the run (R238). -/
def nextMove (s : State) : Host.Outcome State Fault Refusal :=
  if s.running then fireEvent s.nextEvent s.takeEvent
  else if s.ended then .next s
  else .next s.run

/-! ## The program's first instruction -/

/-- Store an instruction's two bytes at PC and PC + 1 (R56). -/
def State.placeWord (s : State) (hi lo : Byte) : State :=
  (s.writeByte s.pc.toNat hi).writeByte (s.pc.toNat + 1) lo

/-- The machine running, its next event an instruction step. -/
def State.aboutToStep (s : State) : State :=
  { s with running := true, ended := false, inputs := .step s.rand :: s.inputs }

end Sys2Proof.Machine
end

