-- ==== Sys2Proof/Machine/Step.lean ====
section
/-! DEFINITION. The step of the machine, and the machine about to run one given instruction. -/

namespace Sys2Proof.Machine

/-- One move of the machine (60_exceptions.md R230, 70_reset_and_hazards.md R263). -/
def step (s : State) : Host.Outcome State Fault Refusal := nextMove s

/-- `s` with the instruction whose bits are `w` stored where the next step fetches, running, and with an instruction step as
its next event (assumption 5). -/
def State.withFetchWord (s : State) (nbits w : Nat) : State :=
  (s.placeWord (tableBytes nbits w).1 (tableBytes nbits w).2).aboutToStep

end Sys2Proof.Machine
end

