-- ==== Sys2Proof/Machine/Scheduler.lean ====
section
/-! DEFINITION. The concrete scheduler (60_exceptions.md R231), informative in the spec: it decides which interleavings of
steps and ticks occur on a real clock. Times are in nanoseconds (assumption 17). -/

namespace Sys2Proof.Machine

/-- Nanoseconds in a second. -/
abbrev nsPerSec : Nat := 1000000000

/-- What the environment gives one scheduling pass: the clock at each place R231 reads it, the random byte of a step and the
key sample of a tick. -/
structure PassInput where
  /-- `now()` in the step's test. -/
  stepTest : Nat
  /-- `now()` stored in t_step. -/
  stepFired : Nat
  /-- `now()` in the tick's test. -/
  tickTest : Nat
  /-- `now()` stored in t_tick. -/
  tickFired : Nat
  rand : Byte
  keys : KeyMask
deriving DecidableEq, Repr

/-- `now() - t > 1 / rate`, in whole nanoseconds (R231). -/
def due (now t rate : Nat) : Bool := decide ((now - t) * rate > nsPerSec)

/-- `run()` of the concrete scheduler: the run flag, and both timestamps at the clock (R231). -/
def State.runAt (s : State) (stepClock tickClock : Nat) : State :=
  { s.run with tStep := stepClock, tTick := tickClock }

/-- The step cadence of a pass: at most one step (R231). -/
def stepCadence (p : PassInput) (s : State) : Host.Outcome State Fault Refusal :=
  if due p.stepTest s.tStep s.config.ips then fireEvent (.step p.rand) { s with tStep := p.stepFired } else .next s

/-- The tick cadence of a pass: at most one tick (R231). -/
def tickCadence (p : PassInput) (s : State) : Host.Outcome State Fault Refusal :=
  if due p.tickTest s.tTick tickHz then fireEvent (.tick p.keys) { s with tTick := p.tickFired } else .next s

/-- One pass of the loop of `run()`: the run flag at the top, then both cadences in sequence (R231). -/
def schedulerPass (p : PassInput) (s : State) : Host.Outcome State Fault Refusal :=
  if s.running then andThen (stepCadence p s) (tickCadence p) else .next s

end Sys2Proof.Machine
end

