-- ==== Sys2Proof/Safety.lean ====
section
/-! DEFINITION. The terms that claims about the machine use: which part of the state is unchanged, what every step keeps,
and the observations of a run. -/

namespace Sys2Proof

/-- V0..Vx (R22). -/
def regsUpTo (x : Reg) : List Reg := (List.finRange 16).filter fun z => decide (z ≤ x)

/-- The registers an instruction reads, by the table of 10_state.md R22. -/
def Instr.reads : Instr → List Reg
  | .cls | .ret | .jp _ | .call _ | .ldImm _ _ | .ldI _ | .rnd _ _ | .ldFromDt _ | .ldKey _ | .loadRegs _ => []
  | .jpV0 _ => [0]
  | .seImm x _ | .sneImm x _ | .addImm x _ | .shr x _ | .shl x _ => [x]
  | .seReg x y | .sneReg x y | .orReg x y | .andReg x y | .xorReg x y | .addReg x y | .sub x y | .subn x y => [x, y]
  | .drw x y _ => [x, y]
  | .ldReg _ y => [y]
  | .skp x | .sknp x | .ldDt x | .ldSt x | .addI x | .ldFont x | .ldBcd x => [x]
  | .saveRegs x => regsUpTo x

/-- The registers an instruction may write, by the table of 10_state.md R22. -/
def Instr.writes (c : Config) : Instr → List Reg
  | .cls | .ret | .jp _ | .call _ | .jpV0 _ | .seImm _ _ | .sneImm _ _ | .seReg _ _ | .sneReg _ _ => []
  | .skp _ | .sknp _ | .ldDt _ | .ldSt _ | .addI _ | .ldFont _ | .ldBcd _ | .ldI _ | .saveRegs _ => []
  | .ldImm x _ | .addImm x _ | .ldReg x _ | .rnd x _ | .ldFromDt x | .ldKey x => [x]
  | .orReg x _ | .andReg x _ | .xorReg x _ => if c.quirkLogicVfReset then [x, VF] else [x]
  | .addReg x _ | .sub x _ | .subn x _ | .shr x _ | .shl x _ => [x, VF]
  | .drw _ _ _ => [VF]
  | .loadRegs x => regsUpTo x

end Sys2Proof

namespace Sys2Proof.Machine

/-- The parts of the state that a frame speaks of, one for each field of `State`. -/
inductive Part where
  | regs | index | pc | sp | stack | delay | sound | display | keysCur | keysLast | memory | running
  | stepStamp | tickStamp | config | rand | inputs | eventCount | ended | outputs
deriving DecidableEq, Repr

/-- A part is the same in two states: every register for the register file, every slot for the stack, every cell for the
display, every byte read for memory, the field itself otherwise. -/
def Part.Same (p : Part) (s t : State) : Prop :=
  match p with
  | .regs => ∀ z, t.getV z = s.getV z
  | .index => t.i = s.i
  | .pc => t.pc = s.pc
  | .sp => t.sp = s.sp
  | .stack => ∀ j, t.getSlot j = s.getSlot j
  | .delay => t.dt = s.dt
  | .sound => t.st = s.st
  | .display => ∀ x y, t.disp.cell x y = s.disp.cell x y
  | .keysCur => t.keysCur = s.keysCur
  | .keysLast => t.keysLast = s.keysLast
  | .memory => ∀ a, t.readByte a = s.readByte a
  | .running => t.running = s.running
  | .stepStamp => t.tStep = s.tStep
  | .tickStamp => t.tTick = s.tTick
  | .config => t.config = s.config
  | .rand => t.rand = s.rand
  | .inputs => t.inputs = s.inputs
  | .eventCount => t.eventCount = s.eventCount
  | .ended => t.ended = s.ended
  | .outputs => t.outputs = s.outputs

/-- From `s` to `t` nothing changes but the listed parts. -/
def OnlyChanges (parts : List Part) (s t : State) : Prop := ∀ p, p ∉ parts → p.Same s t

/-- No register but the listed ones changes. -/
def OnlyRegs (rs : List Reg) (s t : State) : Prop := ∀ z, z ∉ rs → t.getV z = s.getV z

/-- What every move of the machine keeps: memory in canonical form, a configuration the spec allows, and a run that has
ended stays ended. -/
structure State.Inv (s : State) : Prop where
  memory : Memory.wf s.config s.mem
  config : s.config.wf = true
  run : s.ended = true → s.running = false

/-- A safe move: the machine goes on, with no fault and no refusal (60_exceptions.md R220). -/
def State.Goes (s : State) : Prop := ∃ t, step s = .next t

/-- `idle(core)`: the word at PC is a jump to PC itself (70_reset_and_hazards.md R266). -/
def State.idle (s : State) : Bool :=
  decide (s.pc.toNat < memSize) && s.fetchWord == formatA 0x1 (s.pc.setWidth 12)

/-- The pixel of a sprite at I, of n rows, started at cell (x0, y0), that falls on cell (px, py): bit 7 − (px − x0) of byte
py − y0 (R171). -/
def State.spritePixel (s : State) (x0 y0 n px py : Nat) : Bool :=
  decide (x0 ≤ px ∧ px < x0 + 8 ∧ y0 ≤ py ∧ py < y0 + n)
    && (s.readByte (s.i.toNat + (py - y0))).getLsbD (7 - (px - x0))

/-- How many display-changed events a history holds (R34). -/
def displayChanges (os : List Output) : Nat :=
  os.countP fun o => match o with
    | .displayChanged _ _ => true
    | .renderTick _ _ => false

end Sys2Proof.Machine
end

