-- ==== Sys2Proof/Certificates/Slice0/Obligations.lean ====
section
/-! DEFINITION. The statements about the model, for the provers. -/

open Sys2Proof Sys2Proof.Machine

/-! ## Encoding -/

/-- Decoding the word of an instruction, or its two bytes at the head of any string, gives the instruction back
(30_encoding.md sections 2 and 3). -/
def Obligations.DecodeInvertsEncode : Prop :=
  ∀ (i : Instr) (rest : List Byte), decodeWord (encode i) = .ok i ∧
    decodeBytes ((encode i).extractLsb' 8 8 :: (encode i).extractLsb' 0 8 :: rest) = .ok (i, rest)

/-- A word that decodes to an instruction is the word of that instruction: decoding drops no bit (30_encoding.md
sections 2 and 3). -/
def Obligations.EncodeInvertsDecode : Prop :=
  ∀ (w : Word16) (i : Instr), decodeWord w = .ok i → encode i = w

/-- Words written out from the layouts of 30_encoding.md R73 decode to the instructions they stand for. -/
def Obligations.WrittenOutWordsDecode : Prop :=
  decodeWord 0b0000000011100000 = .ok .cls ∧ decodeWord 0b0000000011101110 = .ok .ret ∧
  decodeWord 0b0010010000000000 = .ok (.call 0x400) ∧ decodeWord 0b0110101000000101 = .ok (.ldImm 0xA 0x05) ∧
  decodeWord 0b1000000100100101 = .ok (.sub 1 2) ∧ decodeWord 0b1101000100100101 = .ok (.drw 1 2 5) ∧
  decodeWord 0b1110000110011110 = .ok (.skp 1) ∧ decodeWord 0b1111101000110011 = .ok (.ldBcd 0xA)

/-- The unrecognised words are exactly the six spaces of R77 (with the spec's decisions D13 and D14: n must be 0 in classes
5 and 9, and a class-0 word is matched whole). -/
def Obligations.UnrecognisedWordsAreTheSixSpaces : Prop :=
  ∀ w : Word16, (∃ e, decodeWord w = .error e) ↔
    (w.toNat / 4096 = 0 ∧ w.toNat ≠ 0x00E0 ∧ w.toNat ≠ 0x00EE) ∨
    (w.toNat / 4096 = 5 ∧ w.toNat % 16 ≠ 0) ∨
    (w.toNat / 4096 = 8 ∧ w.toNat % 16 ∈ [0x8, 0x9, 0xA, 0xB, 0xC, 0xD, 0xF]) ∨
    (w.toNat / 4096 = 9 ∧ w.toNat % 16 ≠ 0) ∨
    (w.toNat / 4096 = 0xE ∧ w.toNat % 256 ∉ [0x9E, 0xA1]) ∨
    (w.toNat / 4096 = 0xF ∧ w.toNat % 256 ∉ [0x07, 0x0A, 0x15, 0x18, 0x1E, 0x29, 0x33, 0x55, 0x65])

/-! ## The step -/

/-- The fetched word is 256 times the byte at PC plus the byte at PC + 1, each address mod 4096 (R56; the wrap is the
spec's decision D5). -/
def Obligations.FetchIsBigEndianAndWraps : Prop :=
  ∀ s : State,
    s.fetchWord.toNat =
      256 * (s.readByte (s.pc.toNat % 4096)).toNat + (s.readByte ((s.pc.toNat + 1) % 4096)).toNat

/-- When the next event of a running machine is an instruction step and the word at PC decodes to an instruction, the move is
`exec` of it on the state with PC advanced by 2 (30_encoding.md section 1), and with the event taken off the model's list and
its random byte latched, which are the model's own choices (assumptions 4 and 3). -/
def Obligations.StepRunsDecodedInstruction : Prop :=
  ∀ (s : State) (r : Byte) (i : Instr), s.running = true → s.nextEvent = .step r → decodeWord s.fetchWord = .ok i →
    step s = exec i ((s.takeEvent.setRand r).setPc (s.pc + 2))

/-- An instruction step on an unrecognised word advances PC by 2 and changes nothing else of the machine (R78); the random
byte and the two event fields are the step event's own bookkeeping (assumptions 3 and 4). -/
def Obligations.UnrecognisedWordIsANoOp : Prop :=
  ∀ (s : State) (r : Byte) (e : Unrecognised), s.running = true → s.nextEvent = .step r →
    decodeWord s.fetchWord = .error e →
    ∃ t, step s = .next t ∧ t.pc = s.pc + 2 ∧ OnlyChanges [.pc, .rand, .inputs, .eventCount] s t

/-- No instruction and no move of the machine faults or is refused (R220). -/
def Obligations.NothingFaults : Prop :=
  (∀ (i : Instr) (s : State), ∃ t, exec i s = .next t) ∧ ∀ s : State, s.Goes

/-! ## Control flow -/

/-- 1NNN sets PC to the address and changes nothing else (R101). -/
def Obligations.JumpSetsPc : Prop :=
  ∀ (s : State) (addr : Addr),
    ∃ t, exec (.jp addr) s = .next t ∧ t.pc.toNat = addr.toNat ∧ OnlyChanges [.pc] s t

/-- 2NNN writes PC to the slot SP mod 16, adds one to SP mod 256 and sets PC to the address; no other slot changes, nor
anything else (R102). -/
def Obligations.CallPushesTheReturnAddress : Prop :=
  ∀ (s : State) (addr : Addr), ∃ t, exec (.call addr) s = .next t ∧
    (∀ j : Fin 16, j.val = s.sp.toNat % 16 → t.getSlot j = s.pc) ∧
    (∀ j : Fin 16, j.val ≠ s.sp.toNat % 16 → t.getSlot j = s.getSlot j) ∧
    t.sp.toNat = (s.sp.toNat + 1) % 256 ∧ t.pc.toNat = addr.toNat ∧ OnlyChanges [.pc, .sp, .stack] s t

/-- 00EE takes one from SP mod 256 and sets PC to the slot SP mod 16; the slot is not cleared and nothing else changes
(R100). -/
def Obligations.ReturnPopsThePc : Prop :=
  ∀ s : State, ∃ t, exec .ret s = .next t ∧ t.sp.toNat = (s.sp.toNat + 255) % 256 ∧
    (∀ j : Fin 16, j.val = t.sp.toNat % 16 → t.pc = s.getSlot j) ∧ OnlyChanges [.pc, .sp] s t

/-- BNNN sets PC to the address plus V0, a 16-bit value that is not reduced mod 4096 (R107; the spec's decisions D5 and
D6). -/
def Obligations.JumpV0AddsWithoutWrapping : Prop :=
  ∀ (s : State) (addr : Addr), ∃ t, exec (.jpV0 addr) s = .next t ∧
    t.pc.toNat = addr.toNat + (s.getV 0).toNat ∧ OnlyChanges [.pc] s t

/-- A call, then anything that leaves SP and the stack as the call left them, then a return: control comes back to the
address after the call and SP to its value before it (95_test_vectors.md L1-6). -/
def Obligations.ReturnUndoesCall : Prop :=
  ∀ (s t u : State) (addr : Addr), exec (.call addr) s = .next t → u.sp = t.sp →
    (∀ j, u.getSlot j = t.getSlot j) → ∃ w, exec .ret u = .next w ∧ w.pc = s.pc ∧ w.sp = s.sp

/-- 3XKK skips exactly when Vx equals the immediate and 4XKK exactly when it differs; nothing else changes (R103,
R104). -/
def Obligations.ImmediateSkips : Prop :=
  ∀ (s : State) (x : Reg) (kk : Byte),
    (∃ t, exec (.seImm x kk) s = .next t ∧ t.pc = (if s.getV x = kk then s.pc + 2 else s.pc) ∧
      OnlyChanges [.pc] s t) ∧
    (∃ t, exec (.sneImm x kk) s = .next t ∧ t.pc = (if s.getV x = kk then s.pc else s.pc + 2) ∧
      OnlyChanges [.pc] s t)

/-- 5XY0 skips exactly when the two registers are equal and 9XY0 exactly when they differ; nothing else changes
(40_control_flow.md 5XY0 and 9XY0). -/
def Obligations.RegisterSkips : Prop :=
  ∀ (s : State) (x y : Reg),
    (∃ t, exec (.seReg x y) s = .next t ∧ t.pc = (if s.getV x = s.getV y then s.pc + 2 else s.pc) ∧
      OnlyChanges [.pc] s t) ∧
    (∃ t, exec (.sneReg x y) s = .next t ∧ t.pc = (if s.getV x = s.getV y then s.pc else s.pc + 2) ∧
      OnlyChanges [.pc] s t)

/-- EX9E skips exactly when bit Vx mod 16 of KEYS_CUR is 1 and EXA1 exactly when it is 0; nothing else changes (R190, R191,
R193). -/
def Obligations.KeySkips : Prop :=
  ∀ (s : State) (x : Reg),
    (∃ t, exec (.skp x) s = .next t ∧
      t.pc = (if s.keysCur.getLsbD ((s.getV x).toNat % 16) = true then s.pc + 2 else s.pc) ∧ OnlyChanges [.pc] s t) ∧
    (∃ t, exec (.sknp x) s = .next t ∧
      t.pc = (if s.keysCur.getLsbD ((s.getV x).toNat % 16) = true then s.pc else s.pc + 2) ∧ OnlyChanges [.pc] s t)

/-- After the advance at fetch an instruction leaves PC alone, or adds 2 (a taken skip), or overwrites it (1NNN, 2NNN, BNNN,
00EE), or takes 2 away (FX0A with no key of 0x0..0xE released) (10_state.md section 3). -/
def Obligations.PcChangesOnlyInTheseWays : Prop :=
  ∀ (i : Instr) (s t : State), exec i s = .next t →
    t.pc = s.pc ∨
    (t.pc = s.pc + 2 ∧ ((∃ x kk, i = .seImm x kk ∨ i = .sneImm x kk) ∨ (∃ x y, i = .seReg x y ∨ i = .sneReg x y) ∨
      ∃ x, i = .skp x ∨ i = .sknp x)) ∨
    (i = .ret ∨ ∃ addr, i = .jp addr ∨ i = .call addr ∨ i = .jpV0 addr) ∨
    (t.pc = s.pc - 2 ∧ (∃ x, i = .ldKey x) ∧
      ∀ k < 15, ¬(s.keysLast.getLsbD k = true ∧ s.keysCur.getLsbD k = false))

/-! ## Arithmetic and logic -/

/-- 6XKK writes the immediate and 8XY0 the register Vy to Vx; nothing else changes (R120, R123). -/
def Obligations.LoadsWriteVx : Prop :=
  ∀ (s : State) (x y : Reg) (kk : Byte),
    (∃ t, exec (.ldImm x kk) s = .next t ∧ t.getV x = kk ∧ OnlyRegs [x] s t ∧ OnlyChanges [.regs] s t) ∧
    (∃ t, exec (.ldReg x y) s = .next t ∧ t.getV x = s.getV y ∧ OnlyRegs [x] s t ∧ OnlyChanges [.regs] s t)

/-- 7XKK adds the immediate to Vx mod 256; VF is not written except as the destination, and nothing else changes
(R121). -/
def Obligations.AddImmediateWrapsWithoutFlag : Prop :=
  ∀ (s : State) (x : Reg) (kk : Byte), ∃ t, exec (.addImm x kk) s = .next t ∧
    (t.getV x).toNat = ((s.getV x).toNat + kk.toNat) % 256 ∧ OnlyRegs [x] s t ∧ OnlyChanges [.regs] s t

/-- 8XY1, 8XY2 and 8XY3 write the bitwise OR, AND and XOR to Vx and then, with the quirk on, 0 to VF; with it off VF keeps
its value unless it is the destination (41_alu.md section 3; that VF is written last is the spec's decision D4, the quirk a
parameter, D3). -/
def Obligations.LogicWritesVxThenTheQuirk : Prop :=
  ∀ (s : State) (x y : Reg) (op : Bool → Bool → Bool) (i : Instr),
    (i = .orReg x y ∧ op = or) ∨ (i = .andReg x y ∧ op = and) ∨ (i = .xorReg x y ∧ op = xor) →
    ∃ t, exec i s = .next t ∧
      (s.config.quirkLogicVfReset = true → t.getV VF = 0 ∧ OnlyRegs [x, VF] s t) ∧
      (s.config.quirkLogicVfReset = false → OnlyRegs [x] s t) ∧
      (x ≠ VF ∨ s.config.quirkLogicVfReset = false →
        ∀ k < 8, (t.getV x).getLsbD k = op ((s.getV x).getLsbD k) ((s.getV y).getLsbD k)) ∧
      OnlyChanges [.regs] s t

/-- 8XY4 writes the sum mod 256 to Vx and the carry to VF; when x is 0xF the carry is what VF holds (41_alu.md section 3;
flag last is the spec's decision D4). -/
def Obligations.AddSetsCarry : Prop :=
  ∀ (s : State) (x y : Reg), ∃ t, exec (.addReg x y) s = .next t ∧
    (t.getV VF).toNat = (if (s.getV x).toNat + (s.getV y).toNat > 255 then 1 else 0) ∧
    (x ≠ VF → (t.getV x).toNat = ((s.getV x).toNat + (s.getV y).toNat) % 256) ∧
    OnlyRegs [x, VF] s t ∧ OnlyChanges [.regs] s t

/-- 8XY5 writes Vx − Vy, and 8XY7 Vy − Vx, mod 256 to Vx and NOT-borrow to VF; when x is 0xF the flag is what VF holds
(41_alu.md section 3; flag last is the spec's decision D4). -/
def Obligations.SubtractionsSetNotBorrow : Prop :=
  ∀ (s : State) (x y : Reg),
    (∃ t, exec (.sub x y) s = .next t ∧
      (t.getV VF).toNat = (if (s.getV x).toNat ≥ (s.getV y).toNat then 1 else 0) ∧
      (x ≠ VF → ((t.getV x).toNat : Int) = ((s.getV x).toNat - (s.getV y).toNat : Int) % 256) ∧
      OnlyRegs [x, VF] s t ∧ OnlyChanges [.regs] s t) ∧
    (∃ t, exec (.subn x y) s = .next t ∧
      (t.getV VF).toNat = (if (s.getV y).toNat ≥ (s.getV x).toNat then 1 else 0) ∧
      (x ≠ VF → ((t.getV x).toNat : Int) = ((s.getV y).toNat - (s.getV x).toNat : Int) % 256) ∧
      OnlyRegs [x, VF] s t ∧ OnlyChanges [.regs] s t)

/-- 8XY6 halves Vx and puts old bit 0 in VF; 8XYE doubles Vx mod 256 and puts old bit 7 in VF; y is not read (41_alu.md
section 3; the source register is the spec's decision D10, flag last D4). -/
def Obligations.ShiftsPutTheLostBitInVf : Prop :=
  ∀ (s : State) (x y : Reg),
    (∃ t, exec (.shr x y) s = .next t ∧ (t.getV VF).toNat = (s.getV x).toNat % 2 ∧
      (x ≠ VF → (t.getV x).toNat = (s.getV x).toNat / 2) ∧ OnlyRegs [x, VF] s t ∧ OnlyChanges [.regs] s t) ∧
    (∃ t, exec (.shl x y) s = .next t ∧ (t.getV VF).toNat = (s.getV x).toNat / 128 ∧
      (x ≠ VF → (t.getV x).toNat = (s.getV x).toNat * 2 % 256) ∧ OnlyRegs [x, VF] s t ∧ OnlyChanges [.regs] s t)

/-- CXKK writes the random byte of the step masked by the immediate; the result has no bit outside the mask, and nothing
else changes (R141). -/
def Obligations.RandomIsMasked : Prop :=
  ∀ (s : State) (x : Reg) (kk : Byte), ∃ t, exec (.rnd x kk) s = .next t ∧
    (∀ k < 8, (t.getV x).getLsbD k = (s.rand.getLsbD k && kk.getLsbD k)) ∧ t.getV x &&& ~~~kk = 0 ∧
    OnlyRegs [x] s t ∧ OnlyChanges [.regs] s t

/-- The random byte that a CXKK uses is the one that its own step event carries, whatever byte that is (41_alu.md section 4,
60_exceptions.md section 3). -/
def Obligations.RandomByteComesWithTheStep : Prop :=
  ∀ (s : State) (r : Byte) (x : Reg) (kk : Byte), s.running = true → s.nextEvent = .step r →
    decodeWord s.fetchWord = .ok (.rnd x kk) →
    ∃ t, step s = .next t ∧ t.getV x = r &&& kk ∧ OnlyRegs [x] s t ∧ t.pc = s.pc + 2 ∧
      OnlyChanges [.regs, .pc, .rand, .inputs, .eventCount] s t

/-! ## Address register and memory -/

/-- ANNN sets I to the address, bits 15..12 being 0, and changes nothing else (R150). -/
def Obligations.LoadIndexSetsI : Prop :=
  ∀ (s : State) (addr : Addr),
    ∃ t, exec (.ldI addr) s = .next t ∧ t.i.toNat = addr.toNat ∧ OnlyChanges [.index] s t

/-- FX29 sets I to FONT_BASE + (Vx mod 16) * 5, for every FONT_BASE the configuration allows, and changes nothing else
(R152). -/
def Obligations.FontPointsAtTheGlyph : Prop :=
  ∀ (s : State) (x : Reg), s.config.wf = true → ∃ t, exec (.ldFont x) s = .next t ∧
    t.i.toNat = s.config.fontBase + (s.getV x).toNat % 16 * 5 ∧ OnlyChanges [.index] s t

/-- FX1E adds Vx to I mod 2^16 and changes nothing else, VF neither (42_index_memory.md FX1E; the spec's decisions D6 and
D16). -/
def Obligations.AddIndexWrapsWithoutFlag : Prop :=
  ∀ (s : State) (x : Reg), ∃ t, exec (.addI x) s = .next t ∧
    t.i.toNat = (s.i.toNat + (s.getV x).toNat) % 65536 ∧ OnlyChanges [.index] s t

/-- FX33 stores the hundreds, tens and units of Vx at I, I + 1 and I + 2 mod 4096; no other byte changes, nor anything else,
and the three digits are those of Vx (42_index_memory.md FX33; the wrap is the spec's decision D5). -/
def Obligations.BcdStoresThreeDigits : Prop :=
  ∀ (s : State) (x : Reg), ∃ t, exec (.ldBcd x) s = .next t ∧
    (t.readByte (s.indexed 0)).toNat = (s.getV x).toNat / 100 ∧
    (t.readByte (s.indexed 1)).toNat = (s.getV x).toNat / 10 % 10 ∧
    (t.readByte (s.indexed 2)).toNat = (s.getV x).toNat % 10 ∧
    (∀ a, (∀ k < 3, a % 4096 ≠ s.indexed k % 4096) → t.readByte a = s.readByte a) ∧ OnlyChanges [.memory] s t

/-- FX55 stores V0..Vx at I, .., I + x mod 4096; no other byte changes, nor anything else, I neither (42_index_memory.md
FX55; the wrap is the spec's decision D5, I unchanged D9). -/
def Obligations.SaveStoresV0ToVx : Prop :=
  ∀ (s : State) (x : Reg), ∃ t, exec (.saveRegs x) s = .next t ∧
    (∀ z : Reg, z ≤ x → t.readByte (s.indexed z.val) = s.getV z) ∧
    (∀ a, (∀ k ≤ x.val, a % 4096 ≠ s.indexed k % 4096) → t.readByte a = s.readByte a) ∧ OnlyChanges [.memory] s t

/-- FX65 loads V0..Vx from I, .., I + x mod 4096; the registers above x do not change, nor anything else, I neither
(42_index_memory.md FX65; the wrap is the spec's decision D5, I unchanged D9). -/
def Obligations.LoadReadsV0ToVx : Prop :=
  ∀ (s : State) (x : Reg), ∃ t, exec (.loadRegs x) s = .next t ∧
    (∀ z : Reg, z ≤ x → t.getV z = s.readByte (s.indexed z.val % 4096)) ∧
    (∀ z : Reg, x < z → t.getV z = s.getV z) ∧ OnlyChanges [.regs] s t

/-- What FX55 saves, FX65 with the same x restores, in any later state with the same I whose memory reads as the save left
it (42_index_memory.md FX55 and FX65; the spec's decision D9). -/
def Obligations.LoadRestoresWhatSaveStored : Prop :=
  ∀ (s t u : State) (x : Reg), exec (.saveRegs x) s = .next t → u.i = t.i → (∀ a, u.readByte a = t.readByte a) →
    ∃ w, exec (.loadRegs x) u = .next w ∧ ∀ z : Reg, z ≤ x → w.getV z = s.getV z

/-- A byte that an FX55 step stores where the next fetch reads is the byte that fetch reads, in the high and in the low half
of the word (20_memory.md section 3; the wrap is the spec's decision D5). -/
def Obligations.StoreIsVisibleToTheNextFetch : Prop :=
  ∀ (s : State) (r : Byte) (x : Reg), s.running = true → s.nextEvent = .step r →
    decodeWord s.fetchWord = .ok (.saveRegs x) →
    ∃ t, step s = .next t ∧ t.pc = s.pc + 2 ∧ ∀ z : Reg, z ≤ x →
      (s.indexed z.val % 4096 = t.pc.toNat % 4096 → t.fetchWord.toNat / 256 = (s.getV z).toNat) ∧
      (s.indexed z.val % 4096 = (t.pc.toNat + 1) % 4096 → t.fetchWord.toNat % 256 = (s.getV z).toNat)

/-- Two memories in canonical form that read alike at every address of the address space are the same memory (the model's
own representation, assumption 8). -/
def Obligations.CanonicalMemoryIsItsBytes : Prop :=
  ∀ (c : Config) (m n : Memory), Memory.wf c m → Memory.wf c n →
    (∀ a < 4096, Memory.read c m a = Memory.read c n a) → m = n

/-! ## Display -/

/-- 00E0 sets every cell to 0 and raises display_changed with the cleared buffer; nothing else changes (43_display.md 00E0;
the signal is the spec's decision D15). That the event also records the debug snapshot, as it stands when 00E0 runs, is the
model's choice (assumption 7). -/
def Obligations.ClearBlanksEveryCell : Prop :=
  ∀ s : State, ∃ t, exec .cls s = .next t ∧ (∀ x y, t.disp.cell x y = false) ∧
    t.outputs = .displayChanged t.disp s.debugSnapshot :: s.outputs ∧ OnlyChanges [.display, .outputs] s t

/-- DXYN flips exactly the cells of the grid on which a lit pixel of the sprite at I falls, started at (Vx mod 64, Vy mod
32) and clipped at the edges; VF is 1 when one of those cells was set and 0 otherwise; display_changed comes once, with the
finished buffer; nothing else changes (43_display.md DXYN; the spec's decisions D4, D5, D7 and D8). That the event also
records the debug snapshot, taken after VF is written, is the model's choice (assumption 7). -/
def Obligations.DrawXorsTheClippedSprite : Prop :=
  ∀ (s : State) (x y : Reg) (n : BitVec 4), ∃ t, exec (.drw x y n) s = .next t ∧
    (∀ px py, t.disp.cell px py =
      (s.disp.cell px py ^^ (decide (px < 64 ∧ py < 32) &&
        s.spritePixel ((s.getV x).toNat % 64) ((s.getV y).toNat % 32) n.toNat px py))) ∧
    ((∃ px py, px < 64 ∧ py < 32 ∧
        s.spritePixel ((s.getV x).toNat % 64) ((s.getV y).toNat % 32) n.toNat px py = true ∧
        s.disp.cell px py = true) → t.getV VF = 1) ∧
    ((∀ px py, px < 64 → py < 32 →
        s.spritePixel ((s.getV x).toNat % 64) ((s.getV y).toNat % 32) n.toNat px py = true →
        s.disp.cell px py = false) → t.getV VF = 0) ∧
    t.outputs = .displayChanged t.disp t.debugSnapshot :: s.outputs ∧
    OnlyRegs [VF] s t ∧ OnlyChanges [.regs, .display, .outputs] s t

/-- The same sprite drawn twice at the same place restores every cell, and the second draw, which computes VF afresh, sets it
to 1 exactly when some lit pixel falls on a cell of the grid that was 0 before the first draw (43_display.md DXYN,
90_conflicts.md C2; the spec's sentence that any visible lit pixel is enough does not follow from its pseudocode, which the
model follows, assumption 19). The coordinates are not in VF, which the first draw writes. -/
def Obligations.DrawTwiceRestoresTheDisplay : Prop :=
  ∀ (s t u : State) (x y : Reg) (n : BitVec 4), x ≠ VF → y ≠ VF →
    exec (.drw x y n) s = .next t → exec (.drw x y n) t = .next u →
    (∀ px py, u.disp.cell px py = s.disp.cell px py) ∧
    ((∃ px < 64, ∃ py < 32, s.disp.cell px py = false ∧
      s.spritePixel ((s.getV x).toNat % 64) ((s.getV y).toNat % 32) n.toNat px py = true) → u.getV VF = 1) ∧
    ((∀ px < 64, ∀ py < 32, s.disp.cell px py = false →
      s.spritePixel ((s.getV x).toNat % 64) ((s.getV y).toNat % 32) n.toNat px py = false) → u.getV VF = 0)

/-- Only 00E0 and DXYN change a cell of the display, and no instruction but DXYN reads it: with another display in its
place, every other instruction does the same to everything but the display and the history of displays (R31). -/
def Obligations.OnlyClearAndDrawTouchTheDisplay : Prop :=
  (∀ (i : Instr) (s t : State), exec i s = .next t → i ≠ .cls → (∀ x y n, i ≠ .drw x y n) → t.disp = s.disp) ∧
  (∀ (s : State) (m : KeyMask), (s.tick m).disp = s.disp) ∧
  (∀ (i : Instr) (s t : State) (d : Display), exec i s = .next t → (∀ x y n, i ≠ .drw x y n) →
    ∃ u, exec i (s.setDisp d) = .next u ∧ OnlyChanges [.display, .outputs] t u)

/-- Each 00E0 and each DXYN raises display_changed once, and no other instruction raises it (43_display.md section on
00E0 and DXYN; for 00E0 the spec's decision D15). -/
def Obligations.DisplayChangedOncePerClearOrDraw : Prop :=
  ∀ (i : Instr) (s t : State), exec i s = .next t →
    displayChanges t.outputs = displayChanges s.outputs +
      (match i with
       | .cls => 1
       | .drw _ _ _ => 1
       | _ => 0)

/-! ## Keys and timers -/

/-- FX07 copies DT to Vx, FX15 copies Vx to DT and FX18 copies Vx to ST; nothing else changes
(44_timers_input.md section 3). -/
def Obligations.TimerMoves : Prop :=
  ∀ (s : State) (x : Reg),
    (∃ t, exec (.ldFromDt x) s = .next t ∧ t.getV x = s.dt ∧ OnlyRegs [x] s t ∧ OnlyChanges [.regs] s t) ∧
    (∃ t, exec (.ldDt x) s = .next t ∧ t.dt = s.getV x ∧ OnlyChanges [.delay] s t) ∧
    (∃ t, exec (.ldSt x) s = .next t ∧ t.st = s.getV x ∧ OnlyChanges [.sound] s t)

/-- FX0A stores the lowest key of 0x0..0xE that is down in KEYS_LAST and up in KEYS_CUR and changes nothing else; when there
is none it takes 2 from PC and changes nothing else (44_timers_input.md section 2; the lowest is the spec's decision
D11). -/
def Obligations.KeyWaitTakesTheLowestRelease : Prop :=
  ∀ (s : State) (x : Reg),
    (∀ k < 15, s.keysLast.getLsbD k = true → s.keysCur.getLsbD k = false →
      (∀ j < k, ¬(s.keysLast.getLsbD j = true ∧ s.keysCur.getLsbD j = false)) →
      ∃ t, exec (.ldKey x) s = .next t ∧ (t.getV x).toNat = k ∧ OnlyRegs [x] s t ∧ OnlyChanges [.regs] s t) ∧
    ((∀ k < 15, ¬(s.keysLast.getLsbD k = true ∧ s.keysCur.getLsbD k = false)) →
      ∃ t, exec (.ldKey x) s = .next t ∧ t.pc = s.pc - 2 ∧ OnlyChanges [.pc] s t)

/-- An instruction step at an FX0A with no key released changes nothing of the machine, PC neither: the wait is an ordinary
step repeated (44_timers_input.md section 2). -/
def Obligations.KeyWaitIsABusyWait : Prop :=
  ∀ (s : State) (r : Byte) (x : Reg), s.running = true → s.nextEvent = .step r →
    decodeWord s.fetchWord = .ok (.ldKey x) →
    (∀ k < 15, ¬(s.keysLast.getLsbD k = true ∧ s.keysCur.getLsbD k = false)) →
    ∃ t, step s = .next t ∧ OnlyChanges [.rand, .inputs, .eventCount] s t

/-- After two ticks, FX0A finds a key of 0x0..0xE exactly when one is down in the first sample and up in the second, and
stores the lowest; a key that is pressed does not end the wait (44_timers_input.md section 2, 95_test_vectors.md L1-9; the
lowest is the spec's decision D11). -/
def Obligations.ReleaseBetweenTwoSamplesEndsTheWait : Prop :=
  ∀ (s : State) (m1 m2 : KeyMask) (x : Reg), s.running = true →
    ∃ t u, runEvents [.tick m1, .tick m2] s = .next t ∧ exec (.ldKey x) t = .next u ∧
      (∀ k < 15, m1.getLsbD k = true → m2.getLsbD k = false →
        (∀ j < k, m1.getLsbD j = true → m2.getLsbD j = true) → (u.getV x).toNat = k ∧ u.pc = s.pc) ∧
      ((∀ k < 15, m1.getLsbD k = true → m2.getLsbD k = true) → u.getV x = s.getV x ∧ u.pc = s.pc - 2)

/-- A tick takes one from each timer that is not 0, moves KEYS_CUR to KEYS_LAST, takes the sample as KEYS_CUR and delivers
the display and the snapshot; no register, no PC, no stack, no memory and no cell changes (60_exceptions.md section 3). -/
def Obligations.TickUpdatesTimersAndLatch : Prop :=
  ∀ (s : State) (m : KeyMask), s.running = true → s.nextEvent = .tick m →
    ∃ t, step s = .next t ∧ t.dt.toNat = s.dt.toNat - 1 ∧ t.st.toNat = s.st.toNat - 1 ∧
      t.keysLast = s.keysCur ∧ t.keysCur = m ∧ t.outputs = .renderTick t.disp t.debugSnapshot :: s.outputs ∧
      OnlyChanges [.delay, .sound, .keysCur, .keysLast, .outputs, .inputs, .eventCount] s t

/-- After any number of ticks each timer has gone down by that number, floored at 0, and sound_active is off once the sound
timer has run out (60_exceptions.md section 3; sound_active is the spec's decision D20). -/
def Obligations.TicksCountTimersDownToZero : Prop :=
  ∀ (ms : List KeyMask) (s : State), s.running = true →
    ∃ t, runEvents (ms.map Event.tick) s = .next t ∧ t.dt.toNat = s.dt.toNat - ms.length ∧
      t.st.toNat = s.st.toNat - ms.length ∧ (t.soundActive = true ↔ ms.length < s.st.toNat) ∧
      OnlyChanges [.delay, .sound, .keysCur, .keysLast, .outputs] s t

/-- A program sees a tick only through DT and the Input Latch: with other timers and key masks in their place, every
instruction but EX9E, EXA1, FX07 and FX0A does the same to everything but them and the history (60_exceptions.md
section 1). -/
def Obligations.TicksAreInvisibleToOtherInstructions : Prop :=
  ∀ (i : Instr) (s t : State) (dt st : Byte) (cur last : KeyMask), exec i s = .next t →
    (∀ x, i ≠ .skp x ∧ i ≠ .sknp x ∧ i ≠ .ldFromDt x ∧ i ≠ .ldKey x) →
    ∃ u, exec i { s with dt := dt, st := st, keysCur := cur, keysLast := last } = .next u ∧
      OnlyChanges [.delay, .sound, .keysCur, .keysLast, .outputs] t u

/-! ## Who writes what -/

/-- An instruction writes no register that the table of R22 does not give it (10_state.md section 1). -/
def Obligations.RegistersWrittenAreTheTables : Prop :=
  ∀ (i : Instr) (s t : State), exec i s = .next t → OnlyRegs (i.writes s.config) s t

/-- An instruction reads no register that the table of R22 does not give it: with other values in the registers it does not
read, it does the same to everything but the registers and the history, leaves the other registers alone, and writes the
same values (10_state.md section 1). -/
def Obligations.RegistersReadAreTheTables : Prop :=
  ∀ (i : Instr) (s t : State) (v : Vector Byte 16), exec i s = .next t →
    (∀ z ∈ i.reads, v[z] = s.getV z) →
    ∃ u, exec i { s with v := v } = .next u ∧ OnlyChanges [.regs, .outputs] t u ∧
      ∀ z, u.getV z = t.getV z ∨ (t.getV z = s.getV z ∧ u.getV z = v[z])

/-- I is written only by ANNN, FX1E and FX29; DT only by FX15; ST only by FX18; memory only by FX33 and FX55; a stack slot
only by 2NNN; SP only by 2NNN and 00EE (10_state.md sections 2 to 5, 20_memory.md section 1). -/
def Obligations.EachPartHasItsWriters : Prop :=
  ∀ (i : Instr) (s t : State), exec i s = .next t →
    (t.i = s.i ∨ (∃ addr, i = .ldI addr) ∨ ∃ x, i = .addI x ∨ i = .ldFont x) ∧
    (t.dt = s.dt ∨ ∃ x, i = .ldDt x) ∧ (t.st = s.st ∨ ∃ x, i = .ldSt x) ∧
    (t.mem = s.mem ∨ ∃ x, i = .ldBcd x ∨ i = .saveRegs x) ∧
    (t.stack = s.stack ∨ ∃ addr, i = .call addr) ∧ (t.sp = s.sp ∨ i = .ret ∨ ∃ addr, i = .call addr)

/-- No instruction writes the key masks, the run flag, the scheduler's timestamps, the configuration, or the model's own
event fields (10_state.md sections 7 and 8). -/
def Obligations.NoInstructionTouchesTheOutside : Prop :=
  ∀ (i : Instr) (s t : State), exec i s = .next t →
    OnlyChanges [.regs, .index, .pc, .sp, .stack, .delay, .sound, .display, .memory, .outputs] s t

/-! ## Init, run and stop -/

/-- The state after reset holds the values that R262 lists, for the default configuration and an empty program (the other
fields are the model's choice, assumptions 3, 4, 6, 7 and 17, and no clause is about them). -/
def Obligations.ResetHoldsTheListedValues : Prop :=
  (∀ z, State.reset.getV z = 0) ∧ State.reset.i = 0 ∧ State.reset.pc = 0x200 ∧ State.reset.sp = 0 ∧
  (∀ j, State.reset.getSlot j = 0) ∧ State.reset.dt = 0 ∧ State.reset.st = 0 ∧
  (∀ x y, State.reset.disp.cell x y = false) ∧ State.reset.keysCur = 0 ∧ State.reset.keysLast = 0 ∧
  State.reset.running = false ∧
  (∀ a < 4096, State.reset.readByte a =
    if 0x050 ≤ a ∧ a < 0x0A0 then defaultConfig.fontData.getD (a - 0x050) 0 else 0)

/-- `init` with an allowed configuration and a program of at most 3584 bytes answers the machine with the font at FONT_BASE,
the program at 0x200, 0 in every other byte, and every other listed value as after reset (70_reset_and_hazards.md
section 1; zero memory is the spec's decision D22, no lower bound D29). -/
def Obligations.InitLoadsFontAndProgram : Prop :=
  ∀ (c : Config) (prog : List Byte), c.wf = true → prog.length ≤ 3584 →
    ∃ t, State.init c (some prog) = .next t ∧ t.config = c ∧
      (∀ a < 4096, t.readByte a =
        if 0x200 ≤ a ∧ a < 0x200 + prog.length then prog.getD (a - 0x200) 0
        else if c.fontBase ≤ a ∧ a < c.fontBase + 80 then c.fontData.getD (a - c.fontBase) 0 else 0) ∧
      t.Inv ∧ OnlyChanges [.config, .memory] State.reset t

/-- `init` reports a load error for a program of more than 3584 bytes and for an unreadable one (70_reset_and_hazards.md
section 1). -/
def Obligations.InitRejectsOversizedAndUnreadable : Prop :=
  ∀ (c : Config), c.wf = true → State.init c none = .fault .loadError ∧
    ∀ prog : List Byte, prog.length > 3584 → State.init c (some prog) = .fault .loadError

/-- The first move of a machine that has not run is `run()`: it sets the run flag and changes nothing else
(70_reset_and_hazards.md section 1; that the model's step makes this move is its own choice, assumption 5). -/
def Obligations.FirstMoveIsRun : Prop :=
  ∀ s : State, s.running = false → s.ended = false →
    ∃ t, step s = .next t ∧ t.running = true ∧ OnlyChanges [.running] s t

/-- The stop signal clears the run flag and changes no other state of the core, and after it the state stays as it is for
ever (R238; the event fields and the mark that the run has ended are the model's own, assumptions 4 and 6). -/
def Obligations.StopEndsTheRun : Prop :=
  ∀ s : State, s.running = true → s.nextEvent = .stop →
    ∃ t, step s = .next t ∧ t.running = false ∧ OnlyChanges [.running, .ended, .inputs, .eventCount] s t ∧
      ∀ k, Host.Core.run Sys2Proof.core k t = .next t

/-! ## Whole runs -/

/-- The invariant holds after reset. -/
def Obligations.InvariantHoldsAtReset : Prop := State.reset.Inv

/-- Every move of the machine keeps the invariant: canonical memory, an allowed configuration, an ended run not running
(20_memory.md section 1, 00_scope.md section 4, 60_exceptions.md section 3). -/
def Obligations.InvariantKeptByEveryMove : Prop :=
  ∀ s t : State, s.Inv → step s = .next t → t.Inv

/-- Every finite sequence of steps and ticks is a run of the machine: with it at the head of the environment's list, that
many moves do what the events do in order, apart from the model's event fields (60_exceptions.md section 3; the list is the
model's own, assumption 4). -/
def Obligations.EverySequenceOfEventsIsARun : Prop :=
  ∀ (es rest : List Event) (s : State), s.running = true → s.inputs = es ++ rest → Event.stop ∉ es →
    ∃ t u, Host.Core.run Sys2Proof.core es.length s = .next t ∧ runEvents es s = .next u ∧
      t.inputs = rest ∧ t.eventCount = s.eventCount + es.length ∧ OnlyChanges [.inputs, .eventCount] u t

/-- A self-jump idles for ever: whatever events follow, the machine stays idle and only what ticks and the stop signal
change ever changes (70_reset_and_hazards.md section 2; the observation is the spec's decision D21). -/
def Obligations.SelfJumpIdlesForEver : Prop :=
  ∀ (es : List Event) (s : State), s.idle = true →
    ∃ t, runEvents es s = .next t ∧ t.idle = true ∧
      OnlyChanges [.delay, .sound, .keysCur, .keysLast, .outputs, .rand, .running, .ended] s t

/-- A pass of the concrete scheduler is a run of at most one step and then at most one tick, each exactly when it is due,
apart from the timestamps, and the timestamp of a cadence becomes the clock when it fires and stays otherwise
(60_exceptions.md section 3; the time unit is the model's choice, assumption 17). -/
def Obligations.SchedulerPassIsARunOfEvents : Prop :=
  ∀ (p : PassInput) (s : State), s.running = true →
    ∃ t u, schedulerPass p s = .next t ∧
      runEvents ((if (p.stepTest - s.tStep) * s.config.ips > 1000000000 then [.step p.rand] else []) ++
        (if (p.tickTest - s.tTick) * 60 > 1000000000 then [.tick p.keys] else [])) s = .next u ∧
      OnlyChanges [.stepStamp, .tickStamp] u t ∧
      t.tStep = (if (p.stepTest - s.tStep) * s.config.ips > 1000000000 then p.stepFired else s.tStep) ∧
      t.tTick = (if (p.tickTest - s.tTick) * 60 > 1000000000 then p.tickFired else s.tTick)
end

