-- ==== Sys2Proof/Laws/Memory.lean ====
section
/-! SUPPORT. The laws of memory: read after write, and that every memory operation keeps the canonical form. -/

namespace Sys2Proof.Machine

theorem Memory.lookup_put (m : Memory) (a k : Nat) (b : Byte) :
    Memory.lookup (Memory.put m a b) k = if a = k then some b else Memory.lookup m k := by
  induction m with
  | nil => rfl
  | cons p m ih =>
    obtain ⟨a', b'⟩ := p
    unfold Memory.put
    split
    · rfl
    · split
      · rename_i h; subst h
        simp only [Memory.lookup]; split <;> rfl
      · simp only [Memory.lookup, ih]
        split <;> split <;> simp_all

theorem Memory.lookup_erase (m : Memory) (a k : Nat) :
    Memory.lookup (Memory.erase m a) k = if a = k then none else Memory.lookup m k := by
  induction m with
  | nil => simp [Memory.erase, Memory.lookup]
  | cons p m ih =>
    obtain ⟨a', b'⟩ := p
    simp only [Memory.erase] at ih ⊢
    by_cases h : a' = a
    · subst h
      simp only [List.filter_cons, bne_self_eq_false, Bool.false_eq_true, if_false, ih, Memory.lookup]
      split <;> rfl
    · simp only [List.filter_cons, bne_iff_ne, ne_eq, h, not_false_eq_true, if_true, Memory.lookup, ih]
      split <;> split <;> simp_all

/-- A read after a write: the byte written at that address, the old byte at every other. -/
theorem Memory.read_write (c : Config) (m : Memory) (a k : Nat) (b : Byte) :
    Memory.read c (Memory.write c m a b) k = if a = k then b else Memory.read c m k := by
  unfold Memory.write Memory.read
  split
  · rename_i h
    rw [Memory.lookup_erase]
    split <;> simp_all
  · rw [Memory.lookup_put]
    split <;> simp_all

theorem Memory.mem_put {m : Memory} {a : Nat} {b : Byte} {p : Host.Cell} (h : p ∈ Memory.put m a b) :
    p = (a, b) ∨ p ∈ m := by
  induction m with
  | nil => simpa [Memory.put] using h
  | cons q m ih =>
    unfold Memory.put at h
    split at h
    · simpa using h
    · split at h
      · rcases List.mem_cons.1 h with h | h
        · exact .inl h
        · exact .inr (List.mem_cons_of_mem _ h)
      · rcases List.mem_cons.1 h with h | h
        · exact .inr (h ▸ List.mem_cons_self)
        · exact (ih h).imp id (List.mem_cons_of_mem _)

theorem Memory.pairwise_put {m : Memory} (a : Nat) (b : Byte) (h : m.Pairwise fun p q => p.1 < q.1) :
    (Memory.put m a b).Pairwise fun p q => p.1 < q.1 := by
  induction m with
  | nil => simp [Memory.put]
  | cons q m ih =>
    obtain ⟨hq, hm⟩ := List.pairwise_cons.1 h
    unfold Memory.put
    split
    · rename_i hlt
      refine List.pairwise_cons.2 ⟨fun p hp => ?_, h⟩
      rcases List.mem_cons.1 hp with rfl | hp
      · exact hlt
      · exact lt_trans hlt (hq p hp)
    · split
      · rename_i heq
        subst heq
        exact List.pairwise_cons.2 ⟨hq, hm⟩
      · refine List.pairwise_cons.2 ⟨fun p hp => ?_, ih hm⟩
        rcases Memory.mem_put hp with rfl | hp
        · show q.1 < a
          omega
        · exact hq p hp

/-- A write to an address of the address space keeps the canonical form. -/
theorem Memory.write_wf {c : Config} {m : Memory} {a : Nat} (b : Byte) (ha : a < memSize) (h : Memory.wf c m) :
    Memory.wf c (Memory.write c m a b) := by
  obtain ⟨hp, hv⟩ := h
  unfold Memory.write
  split
  · exact ⟨hp.filter _, fun p hp' => hv p (List.mem_filter.1 hp').1⟩
  · rename_i hb
    refine ⟨Memory.pairwise_put a b hp, fun p hp' => ?_⟩
    rcases Memory.mem_put hp' with rfl | hp'
    · exact ⟨ha, hb⟩
    · exact hv p hp'

theorem Memory.nil_wf (c : Config) : Memory.wf c [] := by simp [Memory.wf]

/-- Loading a string of bytes that ends inside the address space keeps the canonical form. -/
theorem Memory.load_wf {c : Config} (bs : List Byte) {m : Memory} {a : Nat} (ha : a + bs.length ≤ memSize)
    (h : Memory.wf c m) : Memory.wf c (Memory.load c m a bs) := by
  induction bs generalizing m a with
  | nil => exact h
  | cons b bs ih =>
    simp only [List.length_cons] at ha
    exact ih (by omega) (Memory.write_wf b (by omega) h)

/-- A read after loading a string of bytes: the bytes in order, the old byte outside them. -/
theorem Memory.read_load (c : Config) (bs : List Byte) (m : Memory) (a k : Nat) :
    Memory.read c (Memory.load c m a bs) k =
      if a ≤ k ∧ k < a + bs.length then bs.getD (k - a) 0 else Memory.read c m k := by
  induction bs generalizing m a with
  | nil => simp [Memory.load]
  | cons b bs ih =>
    rw [Memory.load, ih, Memory.read_write]
    rcases Nat.lt_trichotomy k a with h | h | h
    · rw [if_neg (by omega), if_neg (by omega), if_neg (by omega)]
    · subst h
      simp
    · obtain ⟨d, rfl⟩ : ∃ d, k = a + 1 + d := ⟨k - (a + 1), by omega⟩
      have e1 : a + 1 + d - (a + 1) = d := by omega
      have e2 : a + 1 + d - a = d + 1 := by omega
      rw [e1, e2, List.getD_cons_succ, List.length_cons]
      by_cases hd : d < bs.length
      · rw [if_pos (by omega), if_pos (by omega)]
      · rw [if_neg (by omega), if_neg (by omega), if_neg (by omega)]

end Sys2Proof.Machine
end

