-- ==== Sys2Proof/Laws/State.lean ====
section
/-! SUPPORT. One lemma per field per update of the state, so that no proof unfolds a record update. -/

namespace Sys2Proof.Machine

variable (s : State)

/-! ### writeByte -/

@[simp] theorem State.writeByte_v (a : Nat) (b : Byte) : (s.writeByte a b).v = s.v := rfl
@[simp] theorem State.writeByte_i (a : Nat) (b : Byte) : (s.writeByte a b).i = s.i := rfl
@[simp] theorem State.writeByte_pc (a : Nat) (b : Byte) : (s.writeByte a b).pc = s.pc := rfl
@[simp] theorem State.writeByte_sp (a : Nat) (b : Byte) : (s.writeByte a b).sp = s.sp := rfl
@[simp] theorem State.writeByte_stack (a : Nat) (b : Byte) : (s.writeByte a b).stack = s.stack := rfl
@[simp] theorem State.writeByte_dt (a : Nat) (b : Byte) : (s.writeByte a b).dt = s.dt := rfl
@[simp] theorem State.writeByte_st (a : Nat) (b : Byte) : (s.writeByte a b).st = s.st := rfl
@[simp] theorem State.writeByte_disp (a : Nat) (b : Byte) : (s.writeByte a b).disp = s.disp := rfl
@[simp] theorem State.writeByte_keysCur (a : Nat) (b : Byte) : (s.writeByte a b).keysCur = s.keysCur := rfl
@[simp] theorem State.writeByte_keysLast (a : Nat) (b : Byte) : (s.writeByte a b).keysLast = s.keysLast := rfl
@[simp] theorem State.writeByte_mem (a : Nat) (b : Byte) : (s.writeByte a b).mem = Memory.write s.config s.mem (a % memSize) b := rfl
@[simp] theorem State.writeByte_running (a : Nat) (b : Byte) : (s.writeByte a b).running = s.running := rfl
@[simp] theorem State.writeByte_tStep (a : Nat) (b : Byte) : (s.writeByte a b).tStep = s.tStep := rfl
@[simp] theorem State.writeByte_tTick (a : Nat) (b : Byte) : (s.writeByte a b).tTick = s.tTick := rfl
@[simp] theorem State.writeByte_config (a : Nat) (b : Byte) : (s.writeByte a b).config = s.config := rfl
@[simp] theorem State.writeByte_rand (a : Nat) (b : Byte) : (s.writeByte a b).rand = s.rand := rfl
@[simp] theorem State.writeByte_inputs (a : Nat) (b : Byte) : (s.writeByte a b).inputs = s.inputs := rfl
@[simp] theorem State.writeByte_eventCount (a : Nat) (b : Byte) : (s.writeByte a b).eventCount = s.eventCount := rfl
@[simp] theorem State.writeByte_ended (a : Nat) (b : Byte) : (s.writeByte a b).ended = s.ended := rfl
@[simp] theorem State.writeByte_outputs (a : Nat) (b : Byte) : (s.writeByte a b).outputs = s.outputs := rfl
@[simp] theorem State.writeByte_getV (a : Nat) (b : Byte) (z : Reg) : (s.writeByte a b).getV z = s.getV z := rfl
@[simp] theorem State.writeByte_getSlot (a : Nat) (b : Byte) (k : Fin 16) : (s.writeByte a b).getSlot k = s.getSlot k := rfl

/-! ### setV -/

@[simp] theorem State.setV_v (x : Reg) (b : Byte) : (s.setV x b).v = s.v.set x b := rfl
@[simp] theorem State.setV_i (x : Reg) (b : Byte) : (s.setV x b).i = s.i := rfl
@[simp] theorem State.setV_pc (x : Reg) (b : Byte) : (s.setV x b).pc = s.pc := rfl
@[simp] theorem State.setV_sp (x : Reg) (b : Byte) : (s.setV x b).sp = s.sp := rfl
@[simp] theorem State.setV_stack (x : Reg) (b : Byte) : (s.setV x b).stack = s.stack := rfl
@[simp] theorem State.setV_dt (x : Reg) (b : Byte) : (s.setV x b).dt = s.dt := rfl
@[simp] theorem State.setV_st (x : Reg) (b : Byte) : (s.setV x b).st = s.st := rfl
@[simp] theorem State.setV_disp (x : Reg) (b : Byte) : (s.setV x b).disp = s.disp := rfl
@[simp] theorem State.setV_keysCur (x : Reg) (b : Byte) : (s.setV x b).keysCur = s.keysCur := rfl
@[simp] theorem State.setV_keysLast (x : Reg) (b : Byte) : (s.setV x b).keysLast = s.keysLast := rfl
@[simp] theorem State.setV_mem (x : Reg) (b : Byte) : (s.setV x b).mem = s.mem := rfl
@[simp] theorem State.setV_running (x : Reg) (b : Byte) : (s.setV x b).running = s.running := rfl
@[simp] theorem State.setV_tStep (x : Reg) (b : Byte) : (s.setV x b).tStep = s.tStep := rfl
@[simp] theorem State.setV_tTick (x : Reg) (b : Byte) : (s.setV x b).tTick = s.tTick := rfl
@[simp] theorem State.setV_config (x : Reg) (b : Byte) : (s.setV x b).config = s.config := rfl
@[simp] theorem State.setV_rand (x : Reg) (b : Byte) : (s.setV x b).rand = s.rand := rfl
@[simp] theorem State.setV_inputs (x : Reg) (b : Byte) : (s.setV x b).inputs = s.inputs := rfl
@[simp] theorem State.setV_eventCount (x : Reg) (b : Byte) : (s.setV x b).eventCount = s.eventCount := rfl
@[simp] theorem State.setV_ended (x : Reg) (b : Byte) : (s.setV x b).ended = s.ended := rfl
@[simp] theorem State.setV_outputs (x : Reg) (b : Byte) : (s.setV x b).outputs = s.outputs := rfl
@[simp] theorem State.setV_getSlot (x : Reg) (b : Byte) (k : Fin 16) : (s.setV x b).getSlot k = s.getSlot k := rfl
@[simp] theorem State.setV_readByte (x : Reg) (b : Byte) (k : Nat) : (s.setV x b).readByte k = s.readByte k := rfl

/-! ### setI -/

@[simp] theorem State.setI_v (a : Word16) : (s.setI a).v = s.v := rfl
@[simp] theorem State.setI_i (a : Word16) : (s.setI a).i = a := rfl
@[simp] theorem State.setI_pc (a : Word16) : (s.setI a).pc = s.pc := rfl
@[simp] theorem State.setI_sp (a : Word16) : (s.setI a).sp = s.sp := rfl
@[simp] theorem State.setI_stack (a : Word16) : (s.setI a).stack = s.stack := rfl
@[simp] theorem State.setI_dt (a : Word16) : (s.setI a).dt = s.dt := rfl
@[simp] theorem State.setI_st (a : Word16) : (s.setI a).st = s.st := rfl
@[simp] theorem State.setI_disp (a : Word16) : (s.setI a).disp = s.disp := rfl
@[simp] theorem State.setI_keysCur (a : Word16) : (s.setI a).keysCur = s.keysCur := rfl
@[simp] theorem State.setI_keysLast (a : Word16) : (s.setI a).keysLast = s.keysLast := rfl
@[simp] theorem State.setI_mem (a : Word16) : (s.setI a).mem = s.mem := rfl
@[simp] theorem State.setI_running (a : Word16) : (s.setI a).running = s.running := rfl
@[simp] theorem State.setI_tStep (a : Word16) : (s.setI a).tStep = s.tStep := rfl
@[simp] theorem State.setI_tTick (a : Word16) : (s.setI a).tTick = s.tTick := rfl
@[simp] theorem State.setI_config (a : Word16) : (s.setI a).config = s.config := rfl
@[simp] theorem State.setI_rand (a : Word16) : (s.setI a).rand = s.rand := rfl
@[simp] theorem State.setI_inputs (a : Word16) : (s.setI a).inputs = s.inputs := rfl
@[simp] theorem State.setI_eventCount (a : Word16) : (s.setI a).eventCount = s.eventCount := rfl
@[simp] theorem State.setI_ended (a : Word16) : (s.setI a).ended = s.ended := rfl
@[simp] theorem State.setI_outputs (a : Word16) : (s.setI a).outputs = s.outputs := rfl
@[simp] theorem State.setI_getV (a : Word16) (z : Reg) : (s.setI a).getV z = s.getV z := rfl
@[simp] theorem State.setI_getSlot (a : Word16) (k : Fin 16) : (s.setI a).getSlot k = s.getSlot k := rfl
@[simp] theorem State.setI_readByte (a : Word16) (k : Nat) : (s.setI a).readByte k = s.readByte k := rfl

/-! ### setPc -/

@[simp] theorem State.setPc_v (a : Word16) : (s.setPc a).v = s.v := rfl
@[simp] theorem State.setPc_i (a : Word16) : (s.setPc a).i = s.i := rfl
@[simp] theorem State.setPc_pc (a : Word16) : (s.setPc a).pc = a := rfl
@[simp] theorem State.setPc_sp (a : Word16) : (s.setPc a).sp = s.sp := rfl
@[simp] theorem State.setPc_stack (a : Word16) : (s.setPc a).stack = s.stack := rfl
@[simp] theorem State.setPc_dt (a : Word16) : (s.setPc a).dt = s.dt := rfl
@[simp] theorem State.setPc_st (a : Word16) : (s.setPc a).st = s.st := rfl
@[simp] theorem State.setPc_disp (a : Word16) : (s.setPc a).disp = s.disp := rfl
@[simp] theorem State.setPc_keysCur (a : Word16) : (s.setPc a).keysCur = s.keysCur := rfl
@[simp] theorem State.setPc_keysLast (a : Word16) : (s.setPc a).keysLast = s.keysLast := rfl
@[simp] theorem State.setPc_mem (a : Word16) : (s.setPc a).mem = s.mem := rfl
@[simp] theorem State.setPc_running (a : Word16) : (s.setPc a).running = s.running := rfl
@[simp] theorem State.setPc_tStep (a : Word16) : (s.setPc a).tStep = s.tStep := rfl
@[simp] theorem State.setPc_tTick (a : Word16) : (s.setPc a).tTick = s.tTick := rfl
@[simp] theorem State.setPc_config (a : Word16) : (s.setPc a).config = s.config := rfl
@[simp] theorem State.setPc_rand (a : Word16) : (s.setPc a).rand = s.rand := rfl
@[simp] theorem State.setPc_inputs (a : Word16) : (s.setPc a).inputs = s.inputs := rfl
@[simp] theorem State.setPc_eventCount (a : Word16) : (s.setPc a).eventCount = s.eventCount := rfl
@[simp] theorem State.setPc_ended (a : Word16) : (s.setPc a).ended = s.ended := rfl
@[simp] theorem State.setPc_outputs (a : Word16) : (s.setPc a).outputs = s.outputs := rfl
@[simp] theorem State.setPc_getV (a : Word16) (z : Reg) : (s.setPc a).getV z = s.getV z := rfl
@[simp] theorem State.setPc_getSlot (a : Word16) (k : Fin 16) : (s.setPc a).getSlot k = s.getSlot k := rfl
@[simp] theorem State.setPc_readByte (a : Word16) (k : Nat) : (s.setPc a).readByte k = s.readByte k := rfl

/-! ### setSp -/

@[simp] theorem State.setSp_v (n : Byte) : (s.setSp n).v = s.v := rfl
@[simp] theorem State.setSp_i (n : Byte) : (s.setSp n).i = s.i := rfl
@[simp] theorem State.setSp_pc (n : Byte) : (s.setSp n).pc = s.pc := rfl
@[simp] theorem State.setSp_sp (n : Byte) : (s.setSp n).sp = n := rfl
@[simp] theorem State.setSp_stack (n : Byte) : (s.setSp n).stack = s.stack := rfl
@[simp] theorem State.setSp_dt (n : Byte) : (s.setSp n).dt = s.dt := rfl
@[simp] theorem State.setSp_st (n : Byte) : (s.setSp n).st = s.st := rfl
@[simp] theorem State.setSp_disp (n : Byte) : (s.setSp n).disp = s.disp := rfl
@[simp] theorem State.setSp_keysCur (n : Byte) : (s.setSp n).keysCur = s.keysCur := rfl
@[simp] theorem State.setSp_keysLast (n : Byte) : (s.setSp n).keysLast = s.keysLast := rfl
@[simp] theorem State.setSp_mem (n : Byte) : (s.setSp n).mem = s.mem := rfl
@[simp] theorem State.setSp_running (n : Byte) : (s.setSp n).running = s.running := rfl
@[simp] theorem State.setSp_tStep (n : Byte) : (s.setSp n).tStep = s.tStep := rfl
@[simp] theorem State.setSp_tTick (n : Byte) : (s.setSp n).tTick = s.tTick := rfl
@[simp] theorem State.setSp_config (n : Byte) : (s.setSp n).config = s.config := rfl
@[simp] theorem State.setSp_rand (n : Byte) : (s.setSp n).rand = s.rand := rfl
@[simp] theorem State.setSp_inputs (n : Byte) : (s.setSp n).inputs = s.inputs := rfl
@[simp] theorem State.setSp_eventCount (n : Byte) : (s.setSp n).eventCount = s.eventCount := rfl
@[simp] theorem State.setSp_ended (n : Byte) : (s.setSp n).ended = s.ended := rfl
@[simp] theorem State.setSp_outputs (n : Byte) : (s.setSp n).outputs = s.outputs := rfl
@[simp] theorem State.setSp_getV (n : Byte) (z : Reg) : (s.setSp n).getV z = s.getV z := rfl
@[simp] theorem State.setSp_getSlot (n : Byte) (k : Fin 16) : (s.setSp n).getSlot k = s.getSlot k := rfl
@[simp] theorem State.setSp_readByte (n : Byte) (k : Nat) : (s.setSp n).readByte k = s.readByte k := rfl

/-! ### setSlot -/

@[simp] theorem State.setSlot_v (j : Fin 16) (w : Word16) : (s.setSlot j w).v = s.v := rfl
@[simp] theorem State.setSlot_i (j : Fin 16) (w : Word16) : (s.setSlot j w).i = s.i := rfl
@[simp] theorem State.setSlot_pc (j : Fin 16) (w : Word16) : (s.setSlot j w).pc = s.pc := rfl
@[simp] theorem State.setSlot_sp (j : Fin 16) (w : Word16) : (s.setSlot j w).sp = s.sp := rfl
@[simp] theorem State.setSlot_stack (j : Fin 16) (w : Word16) : (s.setSlot j w).stack = s.stack.set j w := rfl
@[simp] theorem State.setSlot_dt (j : Fin 16) (w : Word16) : (s.setSlot j w).dt = s.dt := rfl
@[simp] theorem State.setSlot_st (j : Fin 16) (w : Word16) : (s.setSlot j w).st = s.st := rfl
@[simp] theorem State.setSlot_disp (j : Fin 16) (w : Word16) : (s.setSlot j w).disp = s.disp := rfl
@[simp] theorem State.setSlot_keysCur (j : Fin 16) (w : Word16) : (s.setSlot j w).keysCur = s.keysCur := rfl
@[simp] theorem State.setSlot_keysLast (j : Fin 16) (w : Word16) : (s.setSlot j w).keysLast = s.keysLast := rfl
@[simp] theorem State.setSlot_mem (j : Fin 16) (w : Word16) : (s.setSlot j w).mem = s.mem := rfl
@[simp] theorem State.setSlot_running (j : Fin 16) (w : Word16) : (s.setSlot j w).running = s.running := rfl
@[simp] theorem State.setSlot_tStep (j : Fin 16) (w : Word16) : (s.setSlot j w).tStep = s.tStep := rfl
@[simp] theorem State.setSlot_tTick (j : Fin 16) (w : Word16) : (s.setSlot j w).tTick = s.tTick := rfl
@[simp] theorem State.setSlot_config (j : Fin 16) (w : Word16) : (s.setSlot j w).config = s.config := rfl
@[simp] theorem State.setSlot_rand (j : Fin 16) (w : Word16) : (s.setSlot j w).rand = s.rand := rfl
@[simp] theorem State.setSlot_inputs (j : Fin 16) (w : Word16) : (s.setSlot j w).inputs = s.inputs := rfl
@[simp] theorem State.setSlot_eventCount (j : Fin 16) (w : Word16) : (s.setSlot j w).eventCount = s.eventCount := rfl
@[simp] theorem State.setSlot_ended (j : Fin 16) (w : Word16) : (s.setSlot j w).ended = s.ended := rfl
@[simp] theorem State.setSlot_outputs (j : Fin 16) (w : Word16) : (s.setSlot j w).outputs = s.outputs := rfl
@[simp] theorem State.setSlot_getV (j : Fin 16) (w : Word16) (z : Reg) : (s.setSlot j w).getV z = s.getV z := rfl
@[simp] theorem State.setSlot_readByte (j : Fin 16) (w : Word16) (k : Nat) : (s.setSlot j w).readByte k = s.readByte k := rfl

/-! ### setDt -/

@[simp] theorem State.setDt_v (b : Byte) : (s.setDt b).v = s.v := rfl
@[simp] theorem State.setDt_i (b : Byte) : (s.setDt b).i = s.i := rfl
@[simp] theorem State.setDt_pc (b : Byte) : (s.setDt b).pc = s.pc := rfl
@[simp] theorem State.setDt_sp (b : Byte) : (s.setDt b).sp = s.sp := rfl
@[simp] theorem State.setDt_stack (b : Byte) : (s.setDt b).stack = s.stack := rfl
@[simp] theorem State.setDt_dt (b : Byte) : (s.setDt b).dt = b := rfl
@[simp] theorem State.setDt_st (b : Byte) : (s.setDt b).st = s.st := rfl
@[simp] theorem State.setDt_disp (b : Byte) : (s.setDt b).disp = s.disp := rfl
@[simp] theorem State.setDt_keysCur (b : Byte) : (s.setDt b).keysCur = s.keysCur := rfl
@[simp] theorem State.setDt_keysLast (b : Byte) : (s.setDt b).keysLast = s.keysLast := rfl
@[simp] theorem State.setDt_mem (b : Byte) : (s.setDt b).mem = s.mem := rfl
@[simp] theorem State.setDt_running (b : Byte) : (s.setDt b).running = s.running := rfl
@[simp] theorem State.setDt_tStep (b : Byte) : (s.setDt b).tStep = s.tStep := rfl
@[simp] theorem State.setDt_tTick (b : Byte) : (s.setDt b).tTick = s.tTick := rfl
@[simp] theorem State.setDt_config (b : Byte) : (s.setDt b).config = s.config := rfl
@[simp] theorem State.setDt_rand (b : Byte) : (s.setDt b).rand = s.rand := rfl
@[simp] theorem State.setDt_inputs (b : Byte) : (s.setDt b).inputs = s.inputs := rfl
@[simp] theorem State.setDt_eventCount (b : Byte) : (s.setDt b).eventCount = s.eventCount := rfl
@[simp] theorem State.setDt_ended (b : Byte) : (s.setDt b).ended = s.ended := rfl
@[simp] theorem State.setDt_outputs (b : Byte) : (s.setDt b).outputs = s.outputs := rfl
@[simp] theorem State.setDt_getV (b : Byte) (z : Reg) : (s.setDt b).getV z = s.getV z := rfl
@[simp] theorem State.setDt_getSlot (b : Byte) (k : Fin 16) : (s.setDt b).getSlot k = s.getSlot k := rfl
@[simp] theorem State.setDt_readByte (b : Byte) (k : Nat) : (s.setDt b).readByte k = s.readByte k := rfl

/-! ### setSt -/

@[simp] theorem State.setSt_v (b : Byte) : (s.setSt b).v = s.v := rfl
@[simp] theorem State.setSt_i (b : Byte) : (s.setSt b).i = s.i := rfl
@[simp] theorem State.setSt_pc (b : Byte) : (s.setSt b).pc = s.pc := rfl
@[simp] theorem State.setSt_sp (b : Byte) : (s.setSt b).sp = s.sp := rfl
@[simp] theorem State.setSt_stack (b : Byte) : (s.setSt b).stack = s.stack := rfl
@[simp] theorem State.setSt_dt (b : Byte) : (s.setSt b).dt = s.dt := rfl
@[simp] theorem State.setSt_st (b : Byte) : (s.setSt b).st = b := rfl
@[simp] theorem State.setSt_disp (b : Byte) : (s.setSt b).disp = s.disp := rfl
@[simp] theorem State.setSt_keysCur (b : Byte) : (s.setSt b).keysCur = s.keysCur := rfl
@[simp] theorem State.setSt_keysLast (b : Byte) : (s.setSt b).keysLast = s.keysLast := rfl
@[simp] theorem State.setSt_mem (b : Byte) : (s.setSt b).mem = s.mem := rfl
@[simp] theorem State.setSt_running (b : Byte) : (s.setSt b).running = s.running := rfl
@[simp] theorem State.setSt_tStep (b : Byte) : (s.setSt b).tStep = s.tStep := rfl
@[simp] theorem State.setSt_tTick (b : Byte) : (s.setSt b).tTick = s.tTick := rfl
@[simp] theorem State.setSt_config (b : Byte) : (s.setSt b).config = s.config := rfl
@[simp] theorem State.setSt_rand (b : Byte) : (s.setSt b).rand = s.rand := rfl
@[simp] theorem State.setSt_inputs (b : Byte) : (s.setSt b).inputs = s.inputs := rfl
@[simp] theorem State.setSt_eventCount (b : Byte) : (s.setSt b).eventCount = s.eventCount := rfl
@[simp] theorem State.setSt_ended (b : Byte) : (s.setSt b).ended = s.ended := rfl
@[simp] theorem State.setSt_outputs (b : Byte) : (s.setSt b).outputs = s.outputs := rfl
@[simp] theorem State.setSt_getV (b : Byte) (z : Reg) : (s.setSt b).getV z = s.getV z := rfl
@[simp] theorem State.setSt_getSlot (b : Byte) (k : Fin 16) : (s.setSt b).getSlot k = s.getSlot k := rfl
@[simp] theorem State.setSt_readByte (b : Byte) (k : Nat) : (s.setSt b).readByte k = s.readByte k := rfl

/-! ### setRand -/

@[simp] theorem State.setRand_v (r : Byte) : (s.setRand r).v = s.v := rfl
@[simp] theorem State.setRand_i (r : Byte) : (s.setRand r).i = s.i := rfl
@[simp] theorem State.setRand_pc (r : Byte) : (s.setRand r).pc = s.pc := rfl
@[simp] theorem State.setRand_sp (r : Byte) : (s.setRand r).sp = s.sp := rfl
@[simp] theorem State.setRand_stack (r : Byte) : (s.setRand r).stack = s.stack := rfl
@[simp] theorem State.setRand_dt (r : Byte) : (s.setRand r).dt = s.dt := rfl
@[simp] theorem State.setRand_st (r : Byte) : (s.setRand r).st = s.st := rfl
@[simp] theorem State.setRand_disp (r : Byte) : (s.setRand r).disp = s.disp := rfl
@[simp] theorem State.setRand_keysCur (r : Byte) : (s.setRand r).keysCur = s.keysCur := rfl
@[simp] theorem State.setRand_keysLast (r : Byte) : (s.setRand r).keysLast = s.keysLast := rfl
@[simp] theorem State.setRand_mem (r : Byte) : (s.setRand r).mem = s.mem := rfl
@[simp] theorem State.setRand_running (r : Byte) : (s.setRand r).running = s.running := rfl
@[simp] theorem State.setRand_tStep (r : Byte) : (s.setRand r).tStep = s.tStep := rfl
@[simp] theorem State.setRand_tTick (r : Byte) : (s.setRand r).tTick = s.tTick := rfl
@[simp] theorem State.setRand_config (r : Byte) : (s.setRand r).config = s.config := rfl
@[simp] theorem State.setRand_rand (r : Byte) : (s.setRand r).rand = r := rfl
@[simp] theorem State.setRand_inputs (r : Byte) : (s.setRand r).inputs = s.inputs := rfl
@[simp] theorem State.setRand_eventCount (r : Byte) : (s.setRand r).eventCount = s.eventCount := rfl
@[simp] theorem State.setRand_ended (r : Byte) : (s.setRand r).ended = s.ended := rfl
@[simp] theorem State.setRand_outputs (r : Byte) : (s.setRand r).outputs = s.outputs := rfl
@[simp] theorem State.setRand_getV (r : Byte) (z : Reg) : (s.setRand r).getV z = s.getV z := rfl
@[simp] theorem State.setRand_getSlot (r : Byte) (k : Fin 16) : (s.setRand r).getSlot k = s.getSlot k := rfl
@[simp] theorem State.setRand_readByte (r : Byte) (k : Nat) : (s.setRand r).readByte k = s.readByte k := rfl

/-! ### setDisp -/

@[simp] theorem State.setDisp_v (d : Display) : (s.setDisp d).v = s.v := rfl
@[simp] theorem State.setDisp_i (d : Display) : (s.setDisp d).i = s.i := rfl
@[simp] theorem State.setDisp_pc (d : Display) : (s.setDisp d).pc = s.pc := rfl
@[simp] theorem State.setDisp_sp (d : Display) : (s.setDisp d).sp = s.sp := rfl
@[simp] theorem State.setDisp_stack (d : Display) : (s.setDisp d).stack = s.stack := rfl
@[simp] theorem State.setDisp_dt (d : Display) : (s.setDisp d).dt = s.dt := rfl
@[simp] theorem State.setDisp_st (d : Display) : (s.setDisp d).st = s.st := rfl
@[simp] theorem State.setDisp_disp (d : Display) : (s.setDisp d).disp = d := rfl
@[simp] theorem State.setDisp_keysCur (d : Display) : (s.setDisp d).keysCur = s.keysCur := rfl
@[simp] theorem State.setDisp_keysLast (d : Display) : (s.setDisp d).keysLast = s.keysLast := rfl
@[simp] theorem State.setDisp_mem (d : Display) : (s.setDisp d).mem = s.mem := rfl
@[simp] theorem State.setDisp_running (d : Display) : (s.setDisp d).running = s.running := rfl
@[simp] theorem State.setDisp_tStep (d : Display) : (s.setDisp d).tStep = s.tStep := rfl
@[simp] theorem State.setDisp_tTick (d : Display) : (s.setDisp d).tTick = s.tTick := rfl
@[simp] theorem State.setDisp_config (d : Display) : (s.setDisp d).config = s.config := rfl
@[simp] theorem State.setDisp_rand (d : Display) : (s.setDisp d).rand = s.rand := rfl
@[simp] theorem State.setDisp_inputs (d : Display) : (s.setDisp d).inputs = s.inputs := rfl
@[simp] theorem State.setDisp_eventCount (d : Display) : (s.setDisp d).eventCount = s.eventCount := rfl
@[simp] theorem State.setDisp_ended (d : Display) : (s.setDisp d).ended = s.ended := rfl
@[simp] theorem State.setDisp_outputs (d : Display) : (s.setDisp d).outputs = s.outputs := rfl
@[simp] theorem State.setDisp_getV (d : Display) (z : Reg) : (s.setDisp d).getV z = s.getV z := rfl
@[simp] theorem State.setDisp_getSlot (d : Display) (k : Fin 16) : (s.setDisp d).getSlot k = s.getSlot k := rfl
@[simp] theorem State.setDisp_readByte (d : Display) (k : Nat) : (s.setDisp d).readByte k = s.readByte k := rfl

/-! ### emit -/

@[simp] theorem State.emit_v (o : Output) : (s.emit o).v = s.v := rfl
@[simp] theorem State.emit_i (o : Output) : (s.emit o).i = s.i := rfl
@[simp] theorem State.emit_pc (o : Output) : (s.emit o).pc = s.pc := rfl
@[simp] theorem State.emit_sp (o : Output) : (s.emit o).sp = s.sp := rfl
@[simp] theorem State.emit_stack (o : Output) : (s.emit o).stack = s.stack := rfl
@[simp] theorem State.emit_dt (o : Output) : (s.emit o).dt = s.dt := rfl
@[simp] theorem State.emit_st (o : Output) : (s.emit o).st = s.st := rfl
@[simp] theorem State.emit_disp (o : Output) : (s.emit o).disp = s.disp := rfl
@[simp] theorem State.emit_keysCur (o : Output) : (s.emit o).keysCur = s.keysCur := rfl
@[simp] theorem State.emit_keysLast (o : Output) : (s.emit o).keysLast = s.keysLast := rfl
@[simp] theorem State.emit_mem (o : Output) : (s.emit o).mem = s.mem := rfl
@[simp] theorem State.emit_running (o : Output) : (s.emit o).running = s.running := rfl
@[simp] theorem State.emit_tStep (o : Output) : (s.emit o).tStep = s.tStep := rfl
@[simp] theorem State.emit_tTick (o : Output) : (s.emit o).tTick = s.tTick := rfl
@[simp] theorem State.emit_config (o : Output) : (s.emit o).config = s.config := rfl
@[simp] theorem State.emit_rand (o : Output) : (s.emit o).rand = s.rand := rfl
@[simp] theorem State.emit_inputs (o : Output) : (s.emit o).inputs = s.inputs := rfl
@[simp] theorem State.emit_eventCount (o : Output) : (s.emit o).eventCount = s.eventCount := rfl
@[simp] theorem State.emit_ended (o : Output) : (s.emit o).ended = s.ended := rfl
@[simp] theorem State.emit_outputs (o : Output) : (s.emit o).outputs = o :: s.outputs := rfl
@[simp] theorem State.emit_getV (o : Output) (z : Reg) : (s.emit o).getV z = s.getV z := rfl
@[simp] theorem State.emit_getSlot (o : Output) (k : Fin 16) : (s.emit o).getSlot k = s.getSlot k := rfl
@[simp] theorem State.emit_readByte (o : Output) (k : Nat) : (s.emit o).readByte k = s.readByte k := rfl

/-! ### run -/

@[simp] theorem State.run_v : s.run.v = s.v := rfl
@[simp] theorem State.run_i : s.run.i = s.i := rfl
@[simp] theorem State.run_pc : s.run.pc = s.pc := rfl
@[simp] theorem State.run_sp : s.run.sp = s.sp := rfl
@[simp] theorem State.run_stack : s.run.stack = s.stack := rfl
@[simp] theorem State.run_dt : s.run.dt = s.dt := rfl
@[simp] theorem State.run_st : s.run.st = s.st := rfl
@[simp] theorem State.run_disp : s.run.disp = s.disp := rfl
@[simp] theorem State.run_keysCur : s.run.keysCur = s.keysCur := rfl
@[simp] theorem State.run_keysLast : s.run.keysLast = s.keysLast := rfl
@[simp] theorem State.run_mem : s.run.mem = s.mem := rfl
@[simp] theorem State.run_running : s.run.running = true := rfl
@[simp] theorem State.run_tStep : s.run.tStep = s.tStep := rfl
@[simp] theorem State.run_tTick : s.run.tTick = s.tTick := rfl
@[simp] theorem State.run_config : s.run.config = s.config := rfl
@[simp] theorem State.run_rand : s.run.rand = s.rand := rfl
@[simp] theorem State.run_inputs : s.run.inputs = s.inputs := rfl
@[simp] theorem State.run_eventCount : s.run.eventCount = s.eventCount := rfl
@[simp] theorem State.run_ended : s.run.ended = s.ended := rfl
@[simp] theorem State.run_outputs : s.run.outputs = s.outputs := rfl
@[simp] theorem State.run_getV (z : Reg) : s.run.getV z = s.getV z := rfl
@[simp] theorem State.run_getSlot (k : Fin 16) : s.run.getSlot k = s.getSlot k := rfl
@[simp] theorem State.run_readByte (k : Nat) : s.run.readByte k = s.readByte k := rfl

/-! ### tickTimers -/

@[simp] theorem State.tickTimers_v : s.tickTimers.v = s.v := rfl
@[simp] theorem State.tickTimers_i : s.tickTimers.i = s.i := rfl
@[simp] theorem State.tickTimers_pc : s.tickTimers.pc = s.pc := rfl
@[simp] theorem State.tickTimers_sp : s.tickTimers.sp = s.sp := rfl
@[simp] theorem State.tickTimers_stack : s.tickTimers.stack = s.stack := rfl
@[simp] theorem State.tickTimers_dt : s.tickTimers.dt = timerTick s.dt := rfl
@[simp] theorem State.tickTimers_st : s.tickTimers.st = timerTick s.st := rfl
@[simp] theorem State.tickTimers_disp : s.tickTimers.disp = s.disp := rfl
@[simp] theorem State.tickTimers_keysCur : s.tickTimers.keysCur = s.keysCur := rfl
@[simp] theorem State.tickTimers_keysLast : s.tickTimers.keysLast = s.keysLast := rfl
@[simp] theorem State.tickTimers_mem : s.tickTimers.mem = s.mem := rfl
@[simp] theorem State.tickTimers_running : s.tickTimers.running = s.running := rfl
@[simp] theorem State.tickTimers_tStep : s.tickTimers.tStep = s.tStep := rfl
@[simp] theorem State.tickTimers_tTick : s.tickTimers.tTick = s.tTick := rfl
@[simp] theorem State.tickTimers_config : s.tickTimers.config = s.config := rfl
@[simp] theorem State.tickTimers_rand : s.tickTimers.rand = s.rand := rfl
@[simp] theorem State.tickTimers_inputs : s.tickTimers.inputs = s.inputs := rfl
@[simp] theorem State.tickTimers_eventCount : s.tickTimers.eventCount = s.eventCount := rfl
@[simp] theorem State.tickTimers_ended : s.tickTimers.ended = s.ended := rfl
@[simp] theorem State.tickTimers_outputs : s.tickTimers.outputs = s.outputs := rfl
@[simp] theorem State.tickTimers_getV (z : Reg) : s.tickTimers.getV z = s.getV z := rfl
@[simp] theorem State.tickTimers_getSlot (k : Fin 16) : s.tickTimers.getSlot k = s.getSlot k := rfl
@[simp] theorem State.tickTimers_readByte (k : Nat) : s.tickTimers.readByte k = s.readByte k := rfl

/-! ### latchKeys -/

@[simp] theorem State.latchKeys_v (m : KeyMask) : (s.latchKeys m).v = s.v := rfl
@[simp] theorem State.latchKeys_i (m : KeyMask) : (s.latchKeys m).i = s.i := rfl
@[simp] theorem State.latchKeys_pc (m : KeyMask) : (s.latchKeys m).pc = s.pc := rfl
@[simp] theorem State.latchKeys_sp (m : KeyMask) : (s.latchKeys m).sp = s.sp := rfl
@[simp] theorem State.latchKeys_stack (m : KeyMask) : (s.latchKeys m).stack = s.stack := rfl
@[simp] theorem State.latchKeys_dt (m : KeyMask) : (s.latchKeys m).dt = s.dt := rfl
@[simp] theorem State.latchKeys_st (m : KeyMask) : (s.latchKeys m).st = s.st := rfl
@[simp] theorem State.latchKeys_disp (m : KeyMask) : (s.latchKeys m).disp = s.disp := rfl
@[simp] theorem State.latchKeys_keysCur (m : KeyMask) : (s.latchKeys m).keysCur = m := rfl
@[simp] theorem State.latchKeys_keysLast (m : KeyMask) : (s.latchKeys m).keysLast = s.keysCur := rfl
@[simp] theorem State.latchKeys_mem (m : KeyMask) : (s.latchKeys m).mem = s.mem := rfl
@[simp] theorem State.latchKeys_running (m : KeyMask) : (s.latchKeys m).running = s.running := rfl
@[simp] theorem State.latchKeys_tStep (m : KeyMask) : (s.latchKeys m).tStep = s.tStep := rfl
@[simp] theorem State.latchKeys_tTick (m : KeyMask) : (s.latchKeys m).tTick = s.tTick := rfl
@[simp] theorem State.latchKeys_config (m : KeyMask) : (s.latchKeys m).config = s.config := rfl
@[simp] theorem State.latchKeys_rand (m : KeyMask) : (s.latchKeys m).rand = s.rand := rfl
@[simp] theorem State.latchKeys_inputs (m : KeyMask) : (s.latchKeys m).inputs = s.inputs := rfl
@[simp] theorem State.latchKeys_eventCount (m : KeyMask) : (s.latchKeys m).eventCount = s.eventCount := rfl
@[simp] theorem State.latchKeys_ended (m : KeyMask) : (s.latchKeys m).ended = s.ended := rfl
@[simp] theorem State.latchKeys_outputs (m : KeyMask) : (s.latchKeys m).outputs = s.outputs := rfl
@[simp] theorem State.latchKeys_getV (m : KeyMask) (z : Reg) : (s.latchKeys m).getV z = s.getV z := rfl
@[simp] theorem State.latchKeys_getSlot (m : KeyMask) (k : Fin 16) : (s.latchKeys m).getSlot k = s.getSlot k := rfl
@[simp] theorem State.latchKeys_readByte (m : KeyMask) (k : Nat) : (s.latchKeys m).readByte k = s.readByte k := rfl

/-! ### stopRun -/

@[simp] theorem State.stopRun_v : s.stopRun.v = s.v := rfl
@[simp] theorem State.stopRun_i : s.stopRun.i = s.i := rfl
@[simp] theorem State.stopRun_pc : s.stopRun.pc = s.pc := rfl
@[simp] theorem State.stopRun_sp : s.stopRun.sp = s.sp := rfl
@[simp] theorem State.stopRun_stack : s.stopRun.stack = s.stack := rfl
@[simp] theorem State.stopRun_dt : s.stopRun.dt = s.dt := rfl
@[simp] theorem State.stopRun_st : s.stopRun.st = s.st := rfl
@[simp] theorem State.stopRun_disp : s.stopRun.disp = s.disp := rfl
@[simp] theorem State.stopRun_keysCur : s.stopRun.keysCur = s.keysCur := rfl
@[simp] theorem State.stopRun_keysLast : s.stopRun.keysLast = s.keysLast := rfl
@[simp] theorem State.stopRun_mem : s.stopRun.mem = s.mem := rfl
@[simp] theorem State.stopRun_running : s.stopRun.running = false := rfl
@[simp] theorem State.stopRun_tStep : s.stopRun.tStep = s.tStep := rfl
@[simp] theorem State.stopRun_tTick : s.stopRun.tTick = s.tTick := rfl
@[simp] theorem State.stopRun_config : s.stopRun.config = s.config := rfl
@[simp] theorem State.stopRun_rand : s.stopRun.rand = s.rand := rfl
@[simp] theorem State.stopRun_inputs : s.stopRun.inputs = s.inputs := rfl
@[simp] theorem State.stopRun_eventCount : s.stopRun.eventCount = s.eventCount := rfl
@[simp] theorem State.stopRun_ended : s.stopRun.ended = true := rfl
@[simp] theorem State.stopRun_outputs : s.stopRun.outputs = s.outputs := rfl
@[simp] theorem State.stopRun_getV (z : Reg) : s.stopRun.getV z = s.getV z := rfl
@[simp] theorem State.stopRun_getSlot (k : Fin 16) : s.stopRun.getSlot k = s.getSlot k := rfl
@[simp] theorem State.stopRun_readByte (k : Nat) : s.stopRun.readByte k = s.readByte k := rfl

/-! ### takeEvent -/

@[simp] theorem State.takeEvent_v : s.takeEvent.v = s.v := rfl
@[simp] theorem State.takeEvent_i : s.takeEvent.i = s.i := rfl
@[simp] theorem State.takeEvent_pc : s.takeEvent.pc = s.pc := rfl
@[simp] theorem State.takeEvent_sp : s.takeEvent.sp = s.sp := rfl
@[simp] theorem State.takeEvent_stack : s.takeEvent.stack = s.stack := rfl
@[simp] theorem State.takeEvent_dt : s.takeEvent.dt = s.dt := rfl
@[simp] theorem State.takeEvent_st : s.takeEvent.st = s.st := rfl
@[simp] theorem State.takeEvent_disp : s.takeEvent.disp = s.disp := rfl
@[simp] theorem State.takeEvent_keysCur : s.takeEvent.keysCur = s.keysCur := rfl
@[simp] theorem State.takeEvent_keysLast : s.takeEvent.keysLast = s.keysLast := rfl
@[simp] theorem State.takeEvent_mem : s.takeEvent.mem = s.mem := rfl
@[simp] theorem State.takeEvent_running : s.takeEvent.running = s.running := rfl
@[simp] theorem State.takeEvent_tStep : s.takeEvent.tStep = s.tStep := rfl
@[simp] theorem State.takeEvent_tTick : s.takeEvent.tTick = s.tTick := rfl
@[simp] theorem State.takeEvent_config : s.takeEvent.config = s.config := rfl
@[simp] theorem State.takeEvent_rand : s.takeEvent.rand = s.rand := rfl
@[simp] theorem State.takeEvent_inputs : s.takeEvent.inputs = s.inputs.tail := rfl
@[simp] theorem State.takeEvent_eventCount : s.takeEvent.eventCount = s.eventCount + 1 := rfl
@[simp] theorem State.takeEvent_ended : s.takeEvent.ended = s.ended := rfl
@[simp] theorem State.takeEvent_outputs : s.takeEvent.outputs = s.outputs := rfl
@[simp] theorem State.takeEvent_getV (z : Reg) : s.takeEvent.getV z = s.getV z := rfl
@[simp] theorem State.takeEvent_getSlot (k : Fin 16) : s.takeEvent.getSlot k = s.getSlot k := rfl
@[simp] theorem State.takeEvent_readByte (k : Nat) : s.takeEvent.readByte k = s.readByte k := rfl

/-! ### Operations that are one or two of these updates -/

@[simp] theorem State.advancePc_eq : s.advancePc = s.setPc (s.pc + 2) := rfl
@[simp] theorem State.rewindPc_eq : s.rewindPc = s.setPc (s.pc - 2) := rfl
@[simp] theorem State.skipIf_eq (c : Bool) : s.skipIf c = s.setPc (if c then s.pc + 2 else s.pc) := by
  cases c <;> rfl
@[simp] theorem State.setResultAndFlag_eq (x : Reg) (r f : Byte) :
    s.setResultAndFlag x r f = (s.setV x r).setV VF f := rfl
@[simp] theorem State.signalDisplayChanged_eq :
    s.signalDisplayChanged = s.emit (.displayChanged s.disp s.debugSnapshot) := rfl
@[simp] theorem State.signalRenderTick_eq :
    s.signalRenderTick = s.emit (.renderTick s.disp s.debugSnapshot) := rfl
@[simp] theorem State.tick_eq (m : KeyMask) :
    s.tick m = ((s.tickTimers.latchKeys m).emit (.renderTick s.disp (s.tickTimers.latchKeys m).debugSnapshot)) := rfl
@[simp] theorem State.indexed_eq (k : Nat) : s.indexed k = s.i.toNat + k := rfl

/-! ### setLogicResult -/

@[simp] theorem State.setLogicResult_i (x : Reg) (r : Byte) : (s.setLogicResult x r).i = s.i := by unfold State.setLogicResult; split <;> rfl
@[simp] theorem State.setLogicResult_pc (x : Reg) (r : Byte) : (s.setLogicResult x r).pc = s.pc := by unfold State.setLogicResult; split <;> rfl
@[simp] theorem State.setLogicResult_sp (x : Reg) (r : Byte) : (s.setLogicResult x r).sp = s.sp := by unfold State.setLogicResult; split <;> rfl
@[simp] theorem State.setLogicResult_stack (x : Reg) (r : Byte) : (s.setLogicResult x r).stack = s.stack := by unfold State.setLogicResult; split <;> rfl
@[simp] theorem State.setLogicResult_dt (x : Reg) (r : Byte) : (s.setLogicResult x r).dt = s.dt := by unfold State.setLogicResult; split <;> rfl
@[simp] theorem State.setLogicResult_st (x : Reg) (r : Byte) : (s.setLogicResult x r).st = s.st := by unfold State.setLogicResult; split <;> rfl
@[simp] theorem State.setLogicResult_disp (x : Reg) (r : Byte) : (s.setLogicResult x r).disp = s.disp := by unfold State.setLogicResult; split <;> rfl
@[simp] theorem State.setLogicResult_keysCur (x : Reg) (r : Byte) : (s.setLogicResult x r).keysCur = s.keysCur := by unfold State.setLogicResult; split <;> rfl
@[simp] theorem State.setLogicResult_keysLast (x : Reg) (r : Byte) : (s.setLogicResult x r).keysLast = s.keysLast := by unfold State.setLogicResult; split <;> rfl
@[simp] theorem State.setLogicResult_mem (x : Reg) (r : Byte) : (s.setLogicResult x r).mem = s.mem := by unfold State.setLogicResult; split <;> rfl
@[simp] theorem State.setLogicResult_running (x : Reg) (r : Byte) : (s.setLogicResult x r).running = s.running := by unfold State.setLogicResult; split <;> rfl
@[simp] theorem State.setLogicResult_tStep (x : Reg) (r : Byte) : (s.setLogicResult x r).tStep = s.tStep := by unfold State.setLogicResult; split <;> rfl
@[simp] theorem State.setLogicResult_tTick (x : Reg) (r : Byte) : (s.setLogicResult x r).tTick = s.tTick := by unfold State.setLogicResult; split <;> rfl
@[simp] theorem State.setLogicResult_config (x : Reg) (r : Byte) : (s.setLogicResult x r).config = s.config := by unfold State.setLogicResult; split <;> rfl
@[simp] theorem State.setLogicResult_rand (x : Reg) (r : Byte) : (s.setLogicResult x r).rand = s.rand := by unfold State.setLogicResult; split <;> rfl
@[simp] theorem State.setLogicResult_inputs (x : Reg) (r : Byte) : (s.setLogicResult x r).inputs = s.inputs := by unfold State.setLogicResult; split <;> rfl
@[simp] theorem State.setLogicResult_eventCount (x : Reg) (r : Byte) : (s.setLogicResult x r).eventCount = s.eventCount := by unfold State.setLogicResult; split <;> rfl
@[simp] theorem State.setLogicResult_ended (x : Reg) (r : Byte) : (s.setLogicResult x r).ended = s.ended := by unfold State.setLogicResult; split <;> rfl
@[simp] theorem State.setLogicResult_outputs (x : Reg) (r : Byte) : (s.setLogicResult x r).outputs = s.outputs := by unfold State.setLogicResult; split <;> rfl
@[simp] theorem State.setLogicResult_getSlot (x : Reg) (r : Byte) (k : Fin 16) : (s.setLogicResult x r).getSlot k = s.getSlot k := by simp [State.getSlot]
@[simp] theorem State.setLogicResult_readByte (x : Reg) (r : Byte) (k : Nat) : (s.setLogicResult x r).readByte k = s.readByte k := by simp [State.readByte]

/-! ### storeRegs -/

@[simp] theorem State.storeRegs_v (n : Nat) : (s.storeRegs n).v = s.v := by induction n with
  | zero => rfl
  | succ n ih => simpa [State.storeRegs] using ih
@[simp] theorem State.storeRegs_i (n : Nat) : (s.storeRegs n).i = s.i := by induction n with
  | zero => rfl
  | succ n ih => simpa [State.storeRegs] using ih
@[simp] theorem State.storeRegs_pc (n : Nat) : (s.storeRegs n).pc = s.pc := by induction n with
  | zero => rfl
  | succ n ih => simpa [State.storeRegs] using ih
@[simp] theorem State.storeRegs_sp (n : Nat) : (s.storeRegs n).sp = s.sp := by induction n with
  | zero => rfl
  | succ n ih => simpa [State.storeRegs] using ih
@[simp] theorem State.storeRegs_stack (n : Nat) : (s.storeRegs n).stack = s.stack := by induction n with
  | zero => rfl
  | succ n ih => simpa [State.storeRegs] using ih
@[simp] theorem State.storeRegs_dt (n : Nat) : (s.storeRegs n).dt = s.dt := by induction n with
  | zero => rfl
  | succ n ih => simpa [State.storeRegs] using ih
@[simp] theorem State.storeRegs_st (n : Nat) : (s.storeRegs n).st = s.st := by induction n with
  | zero => rfl
  | succ n ih => simpa [State.storeRegs] using ih
@[simp] theorem State.storeRegs_disp (n : Nat) : (s.storeRegs n).disp = s.disp := by induction n with
  | zero => rfl
  | succ n ih => simpa [State.storeRegs] using ih
@[simp] theorem State.storeRegs_keysCur (n : Nat) : (s.storeRegs n).keysCur = s.keysCur := by induction n with
  | zero => rfl
  | succ n ih => simpa [State.storeRegs] using ih
@[simp] theorem State.storeRegs_keysLast (n : Nat) : (s.storeRegs n).keysLast = s.keysLast := by induction n with
  | zero => rfl
  | succ n ih => simpa [State.storeRegs] using ih
@[simp] theorem State.storeRegs_running (n : Nat) : (s.storeRegs n).running = s.running := by induction n with
  | zero => rfl
  | succ n ih => simpa [State.storeRegs] using ih
@[simp] theorem State.storeRegs_tStep (n : Nat) : (s.storeRegs n).tStep = s.tStep := by induction n with
  | zero => rfl
  | succ n ih => simpa [State.storeRegs] using ih
@[simp] theorem State.storeRegs_tTick (n : Nat) : (s.storeRegs n).tTick = s.tTick := by induction n with
  | zero => rfl
  | succ n ih => simpa [State.storeRegs] using ih
@[simp] theorem State.storeRegs_config (n : Nat) : (s.storeRegs n).config = s.config := by induction n with
  | zero => rfl
  | succ n ih => simpa [State.storeRegs] using ih
@[simp] theorem State.storeRegs_rand (n : Nat) : (s.storeRegs n).rand = s.rand := by induction n with
  | zero => rfl
  | succ n ih => simpa [State.storeRegs] using ih
@[simp] theorem State.storeRegs_inputs (n : Nat) : (s.storeRegs n).inputs = s.inputs := by induction n with
  | zero => rfl
  | succ n ih => simpa [State.storeRegs] using ih
@[simp] theorem State.storeRegs_eventCount (n : Nat) : (s.storeRegs n).eventCount = s.eventCount := by induction n with
  | zero => rfl
  | succ n ih => simpa [State.storeRegs] using ih
@[simp] theorem State.storeRegs_ended (n : Nat) : (s.storeRegs n).ended = s.ended := by induction n with
  | zero => rfl
  | succ n ih => simpa [State.storeRegs] using ih
@[simp] theorem State.storeRegs_outputs (n : Nat) : (s.storeRegs n).outputs = s.outputs := by induction n with
  | zero => rfl
  | succ n ih => simpa [State.storeRegs] using ih
@[simp] theorem State.storeRegs_getV (n : Nat) (z : Reg) : (s.storeRegs n).getV z = s.getV z := by simp [State.getV]
@[simp] theorem State.storeRegs_getSlot (n : Nat) (k : Fin 16) : (s.storeRegs n).getSlot k = s.getSlot k := by simp [State.getSlot]

/-! ### loadRegs -/

@[simp] theorem State.loadRegs_i (n : Nat) : (s.loadRegs n).i = s.i := by induction n with
  | zero => rfl
  | succ n ih => simpa [State.loadRegs] using ih
@[simp] theorem State.loadRegs_pc (n : Nat) : (s.loadRegs n).pc = s.pc := by induction n with
  | zero => rfl
  | succ n ih => simpa [State.loadRegs] using ih
@[simp] theorem State.loadRegs_sp (n : Nat) : (s.loadRegs n).sp = s.sp := by induction n with
  | zero => rfl
  | succ n ih => simpa [State.loadRegs] using ih
@[simp] theorem State.loadRegs_stack (n : Nat) : (s.loadRegs n).stack = s.stack := by induction n with
  | zero => rfl
  | succ n ih => simpa [State.loadRegs] using ih
@[simp] theorem State.loadRegs_dt (n : Nat) : (s.loadRegs n).dt = s.dt := by induction n with
  | zero => rfl
  | succ n ih => simpa [State.loadRegs] using ih
@[simp] theorem State.loadRegs_st (n : Nat) : (s.loadRegs n).st = s.st := by induction n with
  | zero => rfl
  | succ n ih => simpa [State.loadRegs] using ih
@[simp] theorem State.loadRegs_disp (n : Nat) : (s.loadRegs n).disp = s.disp := by induction n with
  | zero => rfl
  | succ n ih => simpa [State.loadRegs] using ih
@[simp] theorem State.loadRegs_keysCur (n : Nat) : (s.loadRegs n).keysCur = s.keysCur := by induction n with
  | zero => rfl
  | succ n ih => simpa [State.loadRegs] using ih
@[simp] theorem State.loadRegs_keysLast (n : Nat) : (s.loadRegs n).keysLast = s.keysLast := by induction n with
  | zero => rfl
  | succ n ih => simpa [State.loadRegs] using ih
@[simp] theorem State.loadRegs_mem (n : Nat) : (s.loadRegs n).mem = s.mem := by induction n with
  | zero => rfl
  | succ n ih => simpa [State.loadRegs] using ih
@[simp] theorem State.loadRegs_running (n : Nat) : (s.loadRegs n).running = s.running := by induction n with
  | zero => rfl
  | succ n ih => simpa [State.loadRegs] using ih
@[simp] theorem State.loadRegs_tStep (n : Nat) : (s.loadRegs n).tStep = s.tStep := by induction n with
  | zero => rfl
  | succ n ih => simpa [State.loadRegs] using ih
@[simp] theorem State.loadRegs_tTick (n : Nat) : (s.loadRegs n).tTick = s.tTick := by induction n with
  | zero => rfl
  | succ n ih => simpa [State.loadRegs] using ih
@[simp] theorem State.loadRegs_config (n : Nat) : (s.loadRegs n).config = s.config := by induction n with
  | zero => rfl
  | succ n ih => simpa [State.loadRegs] using ih
@[simp] theorem State.loadRegs_rand (n : Nat) : (s.loadRegs n).rand = s.rand := by induction n with
  | zero => rfl
  | succ n ih => simpa [State.loadRegs] using ih
@[simp] theorem State.loadRegs_inputs (n : Nat) : (s.loadRegs n).inputs = s.inputs := by induction n with
  | zero => rfl
  | succ n ih => simpa [State.loadRegs] using ih
@[simp] theorem State.loadRegs_eventCount (n : Nat) : (s.loadRegs n).eventCount = s.eventCount := by induction n with
  | zero => rfl
  | succ n ih => simpa [State.loadRegs] using ih
@[simp] theorem State.loadRegs_ended (n : Nat) : (s.loadRegs n).ended = s.ended := by induction n with
  | zero => rfl
  | succ n ih => simpa [State.loadRegs] using ih
@[simp] theorem State.loadRegs_outputs (n : Nat) : (s.loadRegs n).outputs = s.outputs := by induction n with
  | zero => rfl
  | succ n ih => simpa [State.loadRegs] using ih
@[simp] theorem State.loadRegs_getSlot (n : Nat) (k : Fin 16) : (s.loadRegs n).getSlot k = s.getSlot k := by simp [State.getSlot]
@[simp] theorem State.loadRegs_readByte (n : Nat) (k : Nat) : (s.loadRegs n).readByte k = s.readByte k := by simp [State.readByte]

end Sys2Proof.Machine
end

