-- ==== Sys2Proof/Laws/Ops.lean ====
section
/-! SUPPORT. One lemma per shared operation: what reading a register, a slot or a byte gives after each of them. -/

namespace Sys2Proof.Machine

variable (s : State)

theorem State.getV_setV (x z : Reg) (b : Byte) : (s.setV x b).getV z = if z = x then b else s.getV z := by
  simp only [State.getV, State.setV, Fin.getElem_fin, Vector.getElem_set, Fin.ext_iff]
  split <;> split <;> first | rfl | omega

@[simp] theorem State.getV_setV_same (x : Reg) (b : Byte) : (s.setV x b).getV x = b := by simp [State.getV_setV]

theorem State.getSlot_setSlot (j k : Fin 16) (w : Word16) :
    (s.setSlot j w).getSlot k = if k = j then w else s.getSlot k := by
  simp only [State.getSlot, State.setSlot, Fin.getElem_fin, Vector.getElem_set, Fin.ext_iff]
  split <;> split <;> first | rfl | omega

@[simp] theorem State.getSlot_setSlot_same (j : Fin 16) (w : Word16) : (s.setSlot j w).getSlot j = w := by
  simp [State.getSlot_setSlot]

/-- Two addresses equal mod 4096 name the same byte (R60). -/
theorem State.readByte_congr {a k : Nat} (h : a % memSize = k % memSize) : s.readByte a = s.readByte k := by
  simp [State.readByte, h]

/-- A byte read after a byte written (R51, R60). -/
theorem State.readByte_writeByte (a k : Nat) (b : Byte) :
    (s.writeByte a b).readByte k = if k % memSize = a % memSize then b else s.readByte k := by
  simp only [State.readByte, State.writeByte, Memory.read_write]
  split <;> split <;> first | rfl | omega

@[simp] theorem State.readByte_writeByte_same (a : Nat) (b : Byte) : (s.writeByte a b).readByte a = b := by
  simp [State.readByte_writeByte]

/-- A byte written keeps memory in canonical form. -/
theorem State.writeByte_wf (a : Nat) (b : Byte) (h : Memory.wf s.config s.mem) :
    Memory.wf (s.writeByte a b).config (s.writeByte a b).mem :=
  Memory.write_wf b (Nat.mod_lt _ (by decide)) h

/-- A register read after the result and the flag of an instruction are written: the flag wins in VF. -/
theorem State.getV_setResultAndFlag (x z : Reg) (r f : Byte) :
    (s.setResultAndFlag x r f).getV z = if z = VF then f else if z = x then r else s.getV z := by
  simp only [State.setResultAndFlag_eq, State.getV_setV]

/-- A register read after a logic result is written. -/
theorem State.getV_setLogicResult (x z : Reg) (r : Byte) :
    (s.setLogicResult x r).getV z =
      if s.config.quirkLogicVfReset = true ∧ z = VF then 0 else if z = x then r else s.getV z := by
  unfold State.setLogicResult
  split
  · rename_i h; simp only [State.getV_setV, h, true_and]
  · rename_i h; simp only [State.getV_setV, h, false_and, if_false, Bool.false_eq_true]

/-- A byte outside I, .., I + n − 1 after storing n registers is the byte before. -/
theorem State.readByte_storeRegs_outside (n k : Nat) (h : ∀ j < n, k % memSize ≠ (s.i.toNat + j) % memSize) :
    (s.storeRegs n).readByte k = s.readByte k := by
  induction n with
  | zero => rfl
  | succ n ih =>
    simp only [State.storeRegs, State.indexed_eq, State.readByte_writeByte,
      if_neg (h n (Nat.lt_succ_self n))]
    exact ih fun j hj => h j (Nat.lt_succ_of_lt hj)

/-- The byte at I + j after storing n registers, j < n, is V[j]. -/
theorem State.readByte_storeRegs_inside (n j : Nat) (hn : n ≤ 16) (hj : j < n) :
    (s.storeRegs n).readByte (s.i.toNat + j) = s.getV (Fin.ofNat 16 j) := by
  induction n with
  | zero => omega
  | succ n ih =>
    simp only [State.storeRegs, State.indexed_eq, State.readByte_writeByte]
    rcases Nat.lt_succ_iff_lt_or_eq.1 hj with h | rfl
    · rw [if_neg (by simp only [memSize]; omega)]
      exact ih (by omega) h
    · rw [if_pos rfl]

/-- What storing registers leaves in memory depends on I, the registers and the bytes of memory alone. -/
theorem State.readByte_storeRegs_congr {u : State} (hi : u.i = s.i) (hv : ∀ z, u.getV z = s.getV z)
    (hm : ∀ a, u.readByte a = s.readByte a) (n a : Nat) : (u.storeRegs n).readByte a = (s.storeRegs n).readByte a := by
  induction n with
  | zero => exact hm a
  | succ n ih =>
    simp only [State.storeRegs, State.indexed_eq, State.readByte_writeByte, ih, hi, hv]

/-- Storing registers keeps memory in canonical form. -/
theorem State.storeRegs_wf (n : Nat) (h : Memory.wf s.config s.mem) :
    Memory.wf (s.storeRegs n).config (s.storeRegs n).mem := by
  induction n with
  | zero => exact h
  | succ n ih => exact State.writeByte_wf _ _ _ ih

/-- Register z after loading n registers: the byte at I + z below n, the old value from n on. -/
theorem State.getV_loadRegs (n : Nat) (hn : n ≤ 16) (z : Reg) :
    (s.loadRegs n).getV z = if z.val < n then s.readByte (s.i.toNat + z.val) else s.getV z := by
  induction n with
  | zero => rfl
  | succ n ih =>
    simp only [State.loadRegs, State.indexed_eq, State.getV_setV, ih (by omega)]
    have e : (z = Fin.ofNat 16 n) ↔ z.val = n := by
      rw [Fin.ext_iff]
      simp only [Fin.ofNat]
      omega
    by_cases h : z.val = n
    · rw [if_pos (e.2 h), if_pos (by omega), h]
    · rw [if_neg (mt e.1 h)]
      split <;> split <;> first | rfl | omega

/-- Going on from an outcome gives a next state exactly when the outcome does and what follows does. -/
theorem andThen_eq_next {o : Host.Outcome State Fault Refusal} {f : State → Host.Outcome State Fault Refusal}
    {t : State} : andThen o f = .next t ↔ ∃ u, o = .next u ∧ f u = .next t := by
  cases o <;> simp [andThen]

@[simp] theorem andThen_next (f : State → Host.Outcome State Fault Refusal) : andThen (.next s) f = f s := rfl

end Sys2Proof.Machine
end

