-- ==== Sys2Proof/Laws/Display.lean ====
section
/-! SUPPORT. The display: what each cell holds after a pixel, a row and a sprite are drawn, and when they collide. -/

namespace Sys2Proof.Machine

theorem Display.cell_outside (d : Display) {x y : Nat} (h : ¬(x < dispW ∧ y < dispH)) : d.cell x y = false := by
  simp only [Display.cell, h, dite_false]

theorem Display.cell_inside (d : Display) {x y : Nat} (hx : x < dispW) (hy : y < dispH) :
    d.cell x y = (d[y]'hy)[x]'hx := dif_pos ⟨hx, hy⟩

theorem Display.flip_inside (d : Display) {x y : Nat} (hx : x < dispW) (hy : y < dispH) :
    d.flip x y = d.set y ((d[y]'hy).set x (!(d[y]'hy)[x]'hx) hx) hy := dif_pos ⟨hx, hy⟩

theorem Display.flip_outside (d : Display) {x y : Nat} (h : ¬(x < dispW ∧ y < dispH)) : d.flip x y = d := dif_neg h

/-- A cell after one cell is flipped. -/
theorem Display.cell_flip (d : Display) (x y px py : Nat) :
    (d.flip x y).cell px py = (d.cell px py ^^ decide (px < dispW ∧ py < dispH ∧ px = x ∧ py = y)) := by
  by_cases h : x < dispW ∧ y < dispH
  · by_cases hp : px < dispW ∧ py < dispH
    · rw [Display.flip_inside d h.1 h.2, Display.cell_inside _ hp.1 hp.2, Display.cell_inside _ hp.1 hp.2]
      by_cases hy : y = py
      · subst hy
        by_cases hx : x = px
        · subst hx; simp [hp]
        · simp [hx, Ne.symm hx]
      · simp [hy, Ne.symm hy]
    · rw [Display.cell_outside _ hp, Display.cell_outside _ hp,
        decide_eq_false fun hh => hp ⟨hh.1, hh.2.1⟩, Bool.xor_false]
  · rw [Display.flip_outside _ h,
      decide_eq_false (by rintro ⟨h1, h2, rfl, rfl⟩; exact h ⟨h1, h2⟩), Bool.xor_false]

@[simp] theorem blankDisplay_cell (x y : Nat) : blankDisplay.cell x y = false := by
  unfold Display.cell blankDisplay
  split <;> simp

/-- A cell after one pixel is drawn. -/
theorem Canvas.cell_plot (cv : Canvas) (px py x y : Nat) (lit : Bool) :
    (cv.plot px py lit).disp.cell x y =
      (cv.disp.cell x y ^^ decide (x < dispW ∧ y < dispH ∧ x = px ∧ y = py ∧ lit = true)) := by
  unfold Canvas.plot
  split
  · rename_i h; simp [Display.cell_flip, h.2.2]
  · rename_i h
    have : ¬(x < dispW ∧ y < dispH ∧ x = px ∧ y = py ∧ lit = true) := by
      rintro ⟨h1, h2, rfl, rfl, h3⟩; exact h ⟨h1, h2, h3⟩
    simp [this]

/-- When one pixel collides. -/
theorem Canvas.collision_plot (cv : Canvas) (px py : Nat) (lit : Bool) :
    (cv.plot px py lit).collision = true ↔
      cv.collision = true ∨ (px < dispW ∧ py < dispH ∧ lit = true ∧ cv.disp.cell px py = true) := by
  unfold Canvas.plot
  split
  · rename_i h; simp [h.1, h.2.1, h.2.2]
  · rename_i h
    constructor
    · exact .inl
    · rintro (h' | ⟨h1, h2, h3, -⟩)
      · exact h'
      · exact absurd ⟨h1, h2, h3⟩ h

/-- A cell after the first n pixels of a row are drawn. -/
theorem Canvas.cell_plotRow (cv : Canvas) (row : Byte) (x0 py n x y : Nat) :
    (cv.plotRow row x0 py n).disp.cell x y =
      (cv.disp.cell x y ^^ decide (x < dispW ∧ y < dispH ∧ y = py ∧ x0 ≤ x ∧ x < x0 + n ∧
        row.getLsbD (7 - (x - x0)) = true)) := by
  induction n with
  | zero =>
    have : ¬(x < dispW ∧ y < dispH ∧ y = py ∧ x0 ≤ x ∧ x < x0 + 0 ∧ row.getLsbD (7 - (x - x0)) = true) := by omega
    simp only [Canvas.plotRow, this, decide_false, Bool.xor_false]
  | succ n ih =>
    rw [Canvas.plotRow, Canvas.cell_plot, ih, Bool.xor_assoc]
    congr 1
    by_cases h : x = x0 + n
    · subst h
      have e : x0 + n - x0 = n := by omega
      rw [e]
      by_cases hb : row.getLsbD (7 - n) = true <;> by_cases hx : x0 + n < dispW <;>
        by_cases hy : y < dispH <;> by_cases hp : y = py <;> simp [hb, hx, hy, hp]
    · have h1 : ¬(x < dispW ∧ y < dispH ∧ x = x0 + n ∧ y = py ∧ row.getLsbD (7 - n) = true) := fun hh => h hh.2.2.1
      rw [decide_eq_false h1, Bool.xor_false]
      have h2 : x < x0 + n ↔ x < x0 + (n + 1) := by omega
      simp only [h2]

/-- When the first n pixels of a row collide. -/
theorem Canvas.collision_plotRow (cv : Canvas) (row : Byte) (x0 py n : Nat) :
    (cv.plotRow row x0 py n).collision = true ↔
      cv.collision = true ∨ ∃ c < n, x0 + c < dispW ∧ py < dispH ∧ row.getLsbD (7 - c) = true ∧
        cv.disp.cell (x0 + c) py = true := by
  induction n with
  | zero => simp [Canvas.plotRow]
  | succ n ih =>
    rw [Canvas.plotRow, Canvas.collision_plot, ih, Canvas.cell_plotRow]
    have h0 : ¬(x0 + n < dispW ∧ py < dispH ∧ py = py ∧ x0 ≤ x0 + n ∧ x0 + n < x0 + n ∧
        row.getLsbD (7 - (x0 + n - x0)) = true) := by omega
    rw [decide_eq_false h0, Bool.xor_false]
    constructor
    · rintro ((h | ⟨c, hc, h⟩) | h)
      · exact .inl h
      · exact .inr ⟨c, by omega, h⟩
      · exact .inr ⟨n, by omega, h⟩
    · rintro (h | ⟨c, hc, h⟩)
      · exact .inl (.inl h)
      · rcases Nat.lt_succ_iff_lt_or_eq.1 hc with hc | rfl
        · exact .inl (.inr ⟨c, hc, h⟩)
        · exact .inr h

theorem State.spritePixel_iff (s : State) (x0 y0 n px py : Nat) :
    s.spritePixel x0 y0 n px py = true ↔ (x0 ≤ px ∧ px < x0 + 8 ∧ y0 ≤ py ∧ py < y0 + n) ∧
      (s.readByte (s.i.toNat + (py - y0))).getLsbD (7 - (px - x0)) = true := by
  simp [State.spritePixel]

/-- A cell after a sprite is drawn: flipped exactly where a lit pixel of the sprite falls on the grid (R172). -/
theorem State.cell_plotSprite (s : State) (x0 y0 n x y : Nat) :
    (s.plotSprite x0 y0 n).disp.cell x y =
      (s.disp.cell x y ^^ (decide (x < dispW ∧ y < dispH) && s.spritePixel x0 y0 n x y)) := by
  induction n with
  | zero =>
    have : s.spritePixel x0 y0 0 x y = false := by
      rw [Bool.eq_false_iff, ne_eq, State.spritePixel_iff]; omega
    simp [State.plotSprite, this]
  | succ n ih =>
    rw [State.plotSprite, Canvas.cell_plotRow, ih, Bool.xor_assoc]
    congr 1
    rw [Bool.eq_iff_iff]
    by_cases h : y = y0 + n
    · subst h
      have e : y0 + n - y0 = n := by omega
      have h1 : s.spritePixel x0 y0 n x (y0 + n) = false := by
        rw [Bool.eq_false_iff, ne_eq, State.spritePixel_iff]; omega
      simp only [h1, Bool.and_false, Bool.false_xor, decide_eq_true_eq, Bool.and_eq_true, State.spritePixel_iff, e,
        State.indexed_eq]
      constructor
      · rintro ⟨a, b, -, c, d, f⟩; exact ⟨⟨a, b⟩, ⟨c, d, by omega, by omega⟩, f⟩
      · rintro ⟨⟨a, b⟩, ⟨c, d, -, -⟩, f⟩; exact ⟨a, b, trivial, c, d, f⟩
    · simp only [h, false_and, and_false, decide_false, Bool.xor_false, Bool.and_eq_true, decide_eq_true_eq,
        State.spritePixel_iff]
      constructor
      · rintro ⟨a, ⟨b, c, d, f⟩, g⟩; exact ⟨a, ⟨b, c, d, by omega⟩, g⟩
      · rintro ⟨a, ⟨b, c, d, f⟩, g⟩; exact ⟨a, ⟨b, c, d, by omega⟩, g⟩

/-- When a sprite collides: some lit pixel of it falls on a cell of the grid that was set (R172). -/
theorem State.collision_plotSprite (s : State) (x0 y0 n : Nat) :
    (s.plotSprite x0 y0 n).collision = true ↔
      ∃ x y, x < dispW ∧ y < dispH ∧ s.spritePixel x0 y0 n x y = true ∧ s.disp.cell x y = true := by
  induction n with
  | zero =>
    simp only [State.plotSprite, State.spritePixel_iff]
    constructor
    · simp
    · rintro ⟨x, y, -, -, h, -⟩; omega
  | succ n ih =>
    rw [State.plotSprite, Canvas.collision_plotRow, ih]
    have old : ∀ x, (s.plotSprite x0 y0 n).disp.cell x (y0 + n) = s.disp.cell x (y0 + n) := fun x => by
      have h1 : s.spritePixel x0 y0 n x (y0 + n) = false := by
        rw [Bool.eq_false_iff, ne_eq, State.spritePixel_iff]; omega
      simp [State.cell_plotSprite, h1]
    simp only [State.spritePixel_iff, old, State.indexed_eq]
    constructor
    · rintro (⟨x, y, hx, hy, ⟨⟨a, b, c, d⟩, e⟩, f⟩ | ⟨c, hc, hx, hy, hb, hcell⟩)
      · exact ⟨x, y, hx, hy, ⟨⟨a, b, c, by omega⟩, e⟩, f⟩
      · refine ⟨x0 + c, y0 + n, hx, hy, ⟨⟨by omega, by omega, by omega, by omega⟩, ?_⟩, hcell⟩
        have e1 : y0 + n - y0 = n := by omega
        have e2 : x0 + c - x0 = c := by omega
        rw [e1, e2]; exact hb
    · rintro ⟨x, y, hx, hy, ⟨⟨a, b, c, d⟩, e⟩, f⟩
      rcases Nat.lt_succ_iff_lt_or_eq.1 (show y < y0 + n + 1 from d) with h | rfl
      · exact .inl ⟨x, y, hx, hy, ⟨⟨a, b, c, h⟩, e⟩, f⟩
      · have e1 : y0 + n - y0 = n := by omega
        obtain ⟨k, rfl⟩ : ∃ k, x = x0 + k := ⟨x - x0, by omega⟩
        have e2 : x0 + k - x0 = k := by omega
        rw [e1, e2] at e
        exact .inr ⟨k, by omega, hx, hy, e, f⟩

end Sys2Proof.Machine
end

