-- ==== Sys2Proof/Laws/Encoding.lean ====
section
/-! SUPPORT. The bits of each format of an instruction word, and the fields the decoder reads from it (30_encoding.md R72,
R73). -/

namespace Sys2Proof

theorem getLsbD_formatA (c : BitVec 4) (addr : Addr) (i : Nat) :
    (formatA c addr).getLsbD i = if i < 12 then addr.getLsbD i else c.getLsbD (i - 12) :=
  BitVec.getLsbD_append

theorem getLsbD_formatXKK (c : BitVec 4) (x : Reg) (kk : Byte) (i : Nat) :
    (formatXKK c x kk).getLsbD i =
      if i < 8 then kk.getLsbD i else if i - 8 < 4 then (regBits x).getLsbD (i - 8) else c.getLsbD (i - 8 - 4) := by
  refine (BitVec.getLsbD_append (x := c ++ regBits x) (y := kk)).trans ?_
  rw [BitVec.getLsbD_append]

theorem getLsbD_wordOfBytes (hi lo : Byte) (i : Nat) :
    (wordOfBytes hi lo).getLsbD i = if i < 8 then lo.getLsbD i else hi.getLsbD (i - 8) :=
  BitVec.getLsbD_append

theorem getLsbD_formatXYN (c : BitVec 4) (x y : Reg) (n : BitVec 4) (i : Nat) :
    (formatXYN c x y n).getLsbD i =
      if i < 4 then n.getLsbD i else if i - 4 < 4 then (regBits y).getLsbD (i - 4)
      else if i - 4 - 4 < 4 then (regBits x).getLsbD (i - 4 - 4) else c.getLsbD (i - 4 - 4 - 4) := by
  refine (BitVec.getLsbD_append (x := c ++ regBits x ++ regBits y) (y := n)).trans ?_
  rw [BitVec.getLsbD_append, BitVec.getLsbD_append]

/-- The XYN layout is the XKK layout with the byte y:n (R72: "kk = y:n"). -/
theorem formatXYN_eq (c : BitVec 4) (x y : Reg) (n : BitVec 4) :
    formatXYN c x y n = formatXKK c x (regBits y ++ n) := by
  refine BitVec.eq_of_getLsbD_eq fun i _ => ?_
  rw [getLsbD_formatXYN, getLsbD_formatXKK, BitVec.getLsbD_append]
  have e : i - 4 - 4 = i - 8 := by omega
  rw [e]
  by_cases h4 : i < 4
  · simp [h4, show i < 8 by omega]
  · by_cases h8 : i < 8 <;> simp [h4, h8, show i - 4 < 4 ↔ i < 8 by omega]

theorem toFin_regBits (x : Reg) : (regBits x).toFin = x := rfl

theorem classOf_formatA (c : BitVec 4) (addr : Addr) : classOf (formatA c addr) = c := by
  ext i hi
  simp [classOf, getLsbD_formatA, hi]

theorem addrOf_formatA (c : BitVec 4) (addr : Addr) : addrOf (formatA c addr) = addr := by
  ext i hi
  simp [addrOf, getLsbD_formatA, hi]

theorem classOf_formatXKK (c : BitVec 4) (x : Reg) (kk : Byte) : classOf (formatXKK c x kk) = c := by
  ext i hi
  simp only [classOf, BitVec.getElem_extractLsb', getLsbD_formatXKK]
  rw [if_neg (by omega), if_neg (by omega)]
  simp [show 12 + i - 8 - 4 = i by omega, hi]

theorem xOf_formatXKK (c : BitVec 4) (x : Reg) (kk : Byte) : xOf (formatXKK c x kk) = x := by
  have h : (formatXKK c x kk).extractLsb' 8 4 = regBits x := by
    ext i hi
    simp [getLsbD_formatXKK, hi]
  rw [xOf, h, toFin_regBits]

theorem kkOf_formatXKK (c : BitVec 4) (x : Reg) (kk : Byte) : kkOf (formatXKK c x kk) = kk := by
  ext i hi
  simp [kkOf, getLsbD_formatXKK, hi]

theorem classOf_formatXYN (c : BitVec 4) (x y : Reg) (n : BitVec 4) : classOf (formatXYN c x y n) = c := by
  rw [formatXYN_eq, classOf_formatXKK]

theorem xOf_formatXYN (c : BitVec 4) (x y : Reg) (n : BitVec 4) : xOf (formatXYN c x y n) = x := by
  rw [formatXYN_eq, xOf_formatXKK]

theorem yOf_formatXYN (c : BitVec 4) (x y : Reg) (n : BitVec 4) : yOf (formatXYN c x y n) = y := by
  have h : (formatXYN c x y n).extractLsb' 4 4 = regBits y := by
    ext i hi
    simp [getLsbD_formatXYN, hi]
  rw [yOf, h, toFin_regBits]

theorem nOf_formatXYN (c : BitVec 4) (x y : Reg) (n : BitVec 4) : nOf (formatXYN c x y n) = n := by
  ext i hi
  simp [nOf, getLsbD_formatXYN, hi]

/-- A word is the XKK layout of its own fields. -/
theorem formatXKK_fields (w : Word16) : formatXKK (classOf w) (xOf w) (kkOf w) = w := by
  refine BitVec.eq_of_getLsbD_eq fun i hi => ?_
  have h : regBits (xOf w) = w.extractLsb' 8 4 := rfl
  rw [getLsbD_formatXKK, h]
  simp only [classOf, kkOf, BitVec.getLsbD_extractLsb']
  split
  · simp [*]
  · split
    · simp [*, show 8 + (i - 8) = i by omega]
    · simp [*, show 12 + (i - 8 - 4) = i by omega]; omega

/-- A word is the A layout of its own fields. -/
theorem formatA_fields (w : Word16) : formatA (classOf w) (addrOf w) = w := by
  refine BitVec.eq_of_getLsbD_eq fun i hi => ?_
  rw [getLsbD_formatA]
  simp only [classOf, addrOf, BitVec.getLsbD_extractLsb']
  split
  · simp [*]
  · simp [*, show 12 + (i - 12) = i by omega]; omega

/-- A word is the XYN layout of its own fields. -/
theorem formatXYN_fields (w : Word16) : formatXYN (classOf w) (xOf w) (yOf w) (nOf w) = w := by
  have h : (regBits (yOf w) ++ nOf w : BitVec 8) = kkOf w := by
    refine BitVec.eq_of_getLsbD_eq fun i hi => ?_
    have hy : regBits (yOf w) = w.extractLsb' 4 4 := rfl
    refine (BitVec.getLsbD_append (x := regBits (yOf w)) (y := nOf w)).trans ?_
    rw [hy]
    simp only [nOf, kkOf, BitVec.getLsbD_extractLsb']
    split
    · simp [*]
    · simp [show 4 + (i - 4) = i by omega, hi]; omega
  rw [formatXYN_eq, h, formatXKK_fields]

/-- No two rows of the opcode table share a word. -/
theorem opcodeTable_disjoint : opcodeTable.Pairwise fun r q => r.disjointFrom q = true := by decide

end Sys2Proof
end

