-- ==== Sys2Proof/Laws/Exec.lean ====
section
/-! SUPPORT. What each instruction answers, one equation per constructor; the provers cite these instead of unfolding a
meaning. -/

namespace Sys2Proof.Machine

variable (s : State)

theorem exec_cls : exec .cls s =
    .next ((s.setDisp blankDisplay).signalDisplayChanged) := rfl

theorem exec_ret : exec .ret s =
    .next ((s.setSp (s.sp - 1)).setPc (s.getSlot (stackSlot (s.sp - 1)))) := rfl

theorem exec_jp (addr : Addr) : exec (.jp addr) s =
    .next (s.setPc (absolute addr)) := rfl

theorem exec_call (addr : Addr) : exec (.call addr) s =
    .next (((s.setSlot (stackSlot s.sp) s.pc).setSp (s.sp + 1)).setPc (absolute addr)) := rfl

theorem exec_seImm (x : Reg) (kk : Byte) : exec (.seImm x kk) s =
    .next (s.skipIf (s.getV x == kk)) := rfl

theorem exec_sneImm (x : Reg) (kk : Byte) : exec (.sneImm x kk) s =
    .next (s.skipIf (s.getV x != kk)) := rfl

theorem exec_seReg (x y : Reg) : exec (.seReg x y) s =
    .next (s.skipIf (s.getV x == s.getV y)) := rfl

theorem exec_ldImm (x : Reg) (kk : Byte) : exec (.ldImm x kk) s =
    .next (s.setV x kk) := rfl

theorem exec_addImm (x : Reg) (kk : Byte) : exec (.addImm x kk) s =
    .next (s.setV x (sum8 (s.getV x) kk)) := rfl

theorem exec_ldReg (x y : Reg) : exec (.ldReg x y) s =
    .next (s.setV x (s.getV y)) := rfl

theorem exec_orReg (x y : Reg) : exec (.orReg x y) s =
    .next (s.setLogicResult x (s.getV x ||| s.getV y)) := rfl

theorem exec_andReg (x y : Reg) : exec (.andReg x y) s =
    .next (s.setLogicResult x (s.getV x &&& s.getV y)) := rfl

theorem exec_xorReg (x y : Reg) : exec (.xorReg x y) s =
    .next (s.setLogicResult x (s.getV x ^^^ s.getV y)) := rfl

theorem exec_addReg (x y : Reg) : exec (.addReg x y) s =
    .next (s.setResultAndFlag x (sum8 (s.getV x) (s.getV y)) (carry (s.getV x) (s.getV y))) := rfl

theorem exec_sub (x y : Reg) : exec (.sub x y) s =
    .next (s.setResultAndFlag x (diff8 (s.getV x) (s.getV y)) (notBorrow (s.getV x) (s.getV y))) := rfl

theorem exec_shr (x y : Reg) : exec (.shr x y) s =
    .next (s.setResultAndFlag x (shiftRight8 (s.getV x)) (bitShiftedRight (s.getV x))) := rfl

theorem exec_subn (x y : Reg) : exec (.subn x y) s =
    .next (s.setResultAndFlag x (diff8 (s.getV y) (s.getV x)) (notBorrow (s.getV y) (s.getV x))) := rfl

theorem exec_shl (x y : Reg) : exec (.shl x y) s =
    .next (s.setResultAndFlag x (shiftLeft8 (s.getV x)) (bitShiftedLeft (s.getV x))) := rfl

theorem exec_sneReg (x y : Reg) : exec (.sneReg x y) s =
    .next (s.skipIf (s.getV x != s.getV y)) := rfl

theorem exec_ldI (addr : Addr) : exec (.ldI addr) s =
    .next (s.setI (absolute addr)) := rfl

theorem exec_jpV0 (addr : Addr) : exec (.jpV0 addr) s =
    .next (s.setPc (absolutePlus addr (s.getV 0))) := rfl

theorem exec_rnd (x : Reg) (kk : Byte) : exec (.rnd x kk) s =
    .next (s.setV x (s.rand &&& kk)) := rfl

theorem exec_drw (x y : Reg) (n : BitVec 4) : exec (.drw x y n) s =
    .next ((((s.setDisp (s.plotSprite (startColumn (s.getV x)) (startRow (s.getV y)) n.toNat).disp).setV VF
      (flagByte (s.plotSprite (startColumn (s.getV x)) (startRow (s.getV y)) n.toNat).collision)).signalDisplayChanged)) := rfl

theorem exec_skp (x : Reg) : exec (.skp x) s =
    .next (s.skipIf (keyDown s.keysCur (lowNibble (s.getV x)).val)) := rfl

theorem exec_sknp (x : Reg) : exec (.sknp x) s =
    .next (s.skipIf (!keyDown s.keysCur (lowNibble (s.getV x)).val)) := rfl

theorem exec_ldFromDt (x : Reg) : exec (.ldFromDt x) s =
    .next (s.setV x s.dt) := rfl

theorem exec_ldKey_released (x : Reg) (k : Nat) (h : releasedKey s.keysLast s.keysCur = some k) :
    exec (.ldKey x) s = .next (s.setV x (BitVec.ofNat 8 k)) := by
  simp only [exec, execLdKey, h]

theorem exec_ldKey_waiting (x : Reg) (h : releasedKey s.keysLast s.keysCur = none) :
    exec (.ldKey x) s = .next (s.setPc (s.pc - 2)) := by
  simp only [exec, execLdKey, h, State.rewindPc]

theorem exec_ldDt (x : Reg) : exec (.ldDt x) s =
    .next (s.setDt (s.getV x)) := rfl

theorem exec_ldSt (x : Reg) : exec (.ldSt x) s =
    .next (s.setSt (s.getV x)) := rfl

theorem exec_addI (x : Reg) : exec (.addI x) s =
    .next (s.setI (s.i + (s.getV x).setWidth 16)) := rfl

theorem exec_ldFont (x : Reg) : exec (.ldFont x) s =
    .next (s.setI (glyphAddr s.config (s.getV x))) := rfl

theorem exec_ldBcd (x : Reg) : exec (.ldBcd x) s =
    .next (((s.writeByte s.i.toNat (hundreds (s.getV x))).writeByte (s.i.toNat + 1) (tens (s.getV x))).writeByte
      (s.i.toNat + 2) (units (s.getV x))) := rfl

theorem exec_saveRegs (x : Reg) : exec (.saveRegs x) s =
    .next (s.storeRegs (x.val + 1)) := rfl

theorem exec_loadRegs (x : Reg) : exec (.loadRegs x) s =
    .next (s.loadRegs (x.val + 1)) := rfl

end Sys2Proof.Machine
end

