-- ==== Sys2Proof/Laws/PerInstr.lean ====
section
/-! SUPPORT. Statements about every instruction, one lemma per constructor. The family EncodingRow: the word of an
instruction has, under its row's mask, its row's pattern, and the row stands in the opcode table (30_encoding.md R73, R75,
spec/opcode_table.json). -/

namespace Sys2Proof.Laws

/-- The word of the instruction belongs to the instruction's row of the opcode table. -/
def EncodingRow.Statement (i : Instr) : Prop :=
  i.opcodeRow ∈ opcodeTable ∧ i.opcodeRow.matchesWord (encode i) = true

theorem matches_formatA (c : BitVec 4) (addr : Addr) : formatA c addr &&& 0xF000 = formatA c 0 := by
  refine BitVec.eq_of_getLsbD_eq fun i _ => ?_
  rw [BitVec.getLsbD_and, getLsbD_formatA, getLsbD_formatA]
  interval_cases i <;> simp

theorem matches_formatXKK (c : BitVec 4) (x : Reg) (kk : Byte) : formatXKK c x kk &&& 0xF000 = formatXKK c 0 0 := by
  refine BitVec.eq_of_getLsbD_eq fun i _ => ?_
  rw [BitVec.getLsbD_and, getLsbD_formatXKK, getLsbD_formatXKK]
  interval_cases i <;> simp [regBits]

theorem matches_formatX (c : BitVec 4) (x : Reg) (f : Byte) : formatX c x f &&& 0xF0FF = formatX c 0 f := by
  refine BitVec.eq_of_getLsbD_eq fun i _ => ?_
  rw [formatX, formatX, BitVec.getLsbD_and, getLsbD_formatXKK, getLsbD_formatXKK]
  interval_cases i <;> simp [regBits]

theorem matches_formatXYN (c : BitVec 4) (x y : Reg) (n : BitVec 4) :
    formatXYN c x y n &&& 0xF000 = formatXYN c 0 0 0 := by
  rw [formatXYN_eq, matches_formatXKK, formatXYN_eq]
  rfl

theorem matches_formatXY (c : BitVec 4) (x y : Reg) (f : BitVec 4) :
    formatXYN c x y f &&& 0xF00F = formatXYN c 0 0 f := by
  rw [formatXYN_eq, formatXYN_eq]
  refine BitVec.eq_of_getLsbD_eq fun i _ => ?_
  rw [BitVec.getLsbD_and, getLsbD_formatXKK, getLsbD_formatXKK, BitVec.getLsbD_append, BitVec.getLsbD_append]
  interval_cases i <;> simp [regBits]

theorem EncodingRow.cls : EncodingRow.Statement .cls := ⟨by decide, by decide⟩

theorem EncodingRow.ret : EncodingRow.Statement .ret := ⟨by decide, by decide⟩

theorem EncodingRow.jp (addr : Addr) : EncodingRow.Statement (.jp addr) :=
  ⟨by simp [Instr.opcodeRow, opcodeTable, opcodeTableLow, opcodeTableHigh], beq_iff_eq.2 (matches_formatA ..)⟩

theorem EncodingRow.call (addr : Addr) : EncodingRow.Statement (.call addr) :=
  ⟨by simp [Instr.opcodeRow, opcodeTable, opcodeTableLow, opcodeTableHigh], beq_iff_eq.2 (matches_formatA ..)⟩

theorem EncodingRow.seImm (x : Reg) (kk : Byte) : EncodingRow.Statement (.seImm x kk) :=
  ⟨by simp [Instr.opcodeRow, opcodeTable, opcodeTableLow, opcodeTableHigh], beq_iff_eq.2 (matches_formatXKK ..)⟩

theorem EncodingRow.sneImm (x : Reg) (kk : Byte) : EncodingRow.Statement (.sneImm x kk) :=
  ⟨by simp [Instr.opcodeRow, opcodeTable, opcodeTableLow, opcodeTableHigh], beq_iff_eq.2 (matches_formatXKK ..)⟩

theorem EncodingRow.seReg (x y : Reg) : EncodingRow.Statement (.seReg x y) :=
  ⟨by simp [Instr.opcodeRow, opcodeTable, opcodeTableLow, opcodeTableHigh], beq_iff_eq.2 (matches_formatXY ..)⟩

theorem EncodingRow.ldImm (x : Reg) (kk : Byte) : EncodingRow.Statement (.ldImm x kk) :=
  ⟨by simp [Instr.opcodeRow, opcodeTable, opcodeTableLow, opcodeTableHigh], beq_iff_eq.2 (matches_formatXKK ..)⟩

theorem EncodingRow.addImm (x : Reg) (kk : Byte) : EncodingRow.Statement (.addImm x kk) :=
  ⟨by simp [Instr.opcodeRow, opcodeTable, opcodeTableLow, opcodeTableHigh], beq_iff_eq.2 (matches_formatXKK ..)⟩

theorem EncodingRow.ldReg (x y : Reg) : EncodingRow.Statement (.ldReg x y) :=
  ⟨by simp [Instr.opcodeRow, opcodeTable, opcodeTableLow, opcodeTableHigh], beq_iff_eq.2 (matches_formatXY ..)⟩

theorem EncodingRow.orReg (x y : Reg) : EncodingRow.Statement (.orReg x y) :=
  ⟨by simp [Instr.opcodeRow, opcodeTable, opcodeTableLow, opcodeTableHigh], beq_iff_eq.2 (matches_formatXY ..)⟩

theorem EncodingRow.andReg (x y : Reg) : EncodingRow.Statement (.andReg x y) :=
  ⟨by simp [Instr.opcodeRow, opcodeTable, opcodeTableLow, opcodeTableHigh], beq_iff_eq.2 (matches_formatXY ..)⟩

theorem EncodingRow.xorReg (x y : Reg) : EncodingRow.Statement (.xorReg x y) :=
  ⟨by simp [Instr.opcodeRow, opcodeTable, opcodeTableLow, opcodeTableHigh], beq_iff_eq.2 (matches_formatXY ..)⟩

theorem EncodingRow.addReg (x y : Reg) : EncodingRow.Statement (.addReg x y) :=
  ⟨by simp [Instr.opcodeRow, opcodeTable, opcodeTableLow, opcodeTableHigh], beq_iff_eq.2 (matches_formatXY ..)⟩

theorem EncodingRow.sub (x y : Reg) : EncodingRow.Statement (.sub x y) :=
  ⟨by simp [Instr.opcodeRow, opcodeTable, opcodeTableLow, opcodeTableHigh], beq_iff_eq.2 (matches_formatXY ..)⟩

theorem EncodingRow.shr (x y : Reg) : EncodingRow.Statement (.shr x y) :=
  ⟨by simp [Instr.opcodeRow, opcodeTable, opcodeTableLow, opcodeTableHigh], beq_iff_eq.2 (matches_formatXY ..)⟩

theorem EncodingRow.subn (x y : Reg) : EncodingRow.Statement (.subn x y) :=
  ⟨by simp [Instr.opcodeRow, opcodeTable, opcodeTableLow, opcodeTableHigh], beq_iff_eq.2 (matches_formatXY ..)⟩

theorem EncodingRow.shl (x y : Reg) : EncodingRow.Statement (.shl x y) :=
  ⟨by simp [Instr.opcodeRow, opcodeTable, opcodeTableLow, opcodeTableHigh], beq_iff_eq.2 (matches_formatXY ..)⟩

theorem EncodingRow.sneReg (x y : Reg) : EncodingRow.Statement (.sneReg x y) :=
  ⟨by simp [Instr.opcodeRow, opcodeTable, opcodeTableLow, opcodeTableHigh], beq_iff_eq.2 (matches_formatXY ..)⟩

theorem EncodingRow.ldI (addr : Addr) : EncodingRow.Statement (.ldI addr) :=
  ⟨by simp [Instr.opcodeRow, opcodeTable, opcodeTableLow, opcodeTableHigh], beq_iff_eq.2 (matches_formatA ..)⟩

theorem EncodingRow.jpV0 (addr : Addr) : EncodingRow.Statement (.jpV0 addr) :=
  ⟨by simp [Instr.opcodeRow, opcodeTable, opcodeTableLow, opcodeTableHigh], beq_iff_eq.2 (matches_formatA ..)⟩

theorem EncodingRow.rnd (x : Reg) (kk : Byte) : EncodingRow.Statement (.rnd x kk) :=
  ⟨by simp [Instr.opcodeRow, opcodeTable, opcodeTableLow, opcodeTableHigh], beq_iff_eq.2 (matches_formatXKK ..)⟩

theorem EncodingRow.drw (x y : Reg) (n : BitVec 4) : EncodingRow.Statement (.drw x y n) :=
  ⟨by simp [Instr.opcodeRow, opcodeTable, opcodeTableLow, opcodeTableHigh], beq_iff_eq.2 (matches_formatXYN ..)⟩

theorem EncodingRow.skp (x : Reg) : EncodingRow.Statement (.skp x) :=
  ⟨by simp [Instr.opcodeRow, opcodeTable, opcodeTableLow, opcodeTableHigh], beq_iff_eq.2 (matches_formatX ..)⟩

theorem EncodingRow.sknp (x : Reg) : EncodingRow.Statement (.sknp x) :=
  ⟨by simp [Instr.opcodeRow, opcodeTable, opcodeTableLow, opcodeTableHigh], beq_iff_eq.2 (matches_formatX ..)⟩

theorem EncodingRow.ldFromDt (x : Reg) : EncodingRow.Statement (.ldFromDt x) :=
  ⟨by simp [Instr.opcodeRow, opcodeTable, opcodeTableLow, opcodeTableHigh], beq_iff_eq.2 (matches_formatX ..)⟩

theorem EncodingRow.ldKey (x : Reg) : EncodingRow.Statement (.ldKey x) :=
  ⟨by simp [Instr.opcodeRow, opcodeTable, opcodeTableLow, opcodeTableHigh], beq_iff_eq.2 (matches_formatX ..)⟩

theorem EncodingRow.ldDt (x : Reg) : EncodingRow.Statement (.ldDt x) :=
  ⟨by simp [Instr.opcodeRow, opcodeTable, opcodeTableLow, opcodeTableHigh], beq_iff_eq.2 (matches_formatX ..)⟩

theorem EncodingRow.ldSt (x : Reg) : EncodingRow.Statement (.ldSt x) :=
  ⟨by simp [Instr.opcodeRow, opcodeTable, opcodeTableLow, opcodeTableHigh], beq_iff_eq.2 (matches_formatX ..)⟩

theorem EncodingRow.addI (x : Reg) : EncodingRow.Statement (.addI x) :=
  ⟨by simp [Instr.opcodeRow, opcodeTable, opcodeTableLow, opcodeTableHigh], beq_iff_eq.2 (matches_formatX ..)⟩

theorem EncodingRow.ldFont (x : Reg) : EncodingRow.Statement (.ldFont x) :=
  ⟨by simp [Instr.opcodeRow, opcodeTable, opcodeTableLow, opcodeTableHigh], beq_iff_eq.2 (matches_formatX ..)⟩

theorem EncodingRow.ldBcd (x : Reg) : EncodingRow.Statement (.ldBcd x) :=
  ⟨by simp [Instr.opcodeRow, opcodeTable, opcodeTableLow, opcodeTableHigh], beq_iff_eq.2 (matches_formatX ..)⟩

theorem EncodingRow.saveRegs (x : Reg) : EncodingRow.Statement (.saveRegs x) :=
  ⟨by simp [Instr.opcodeRow, opcodeTable, opcodeTableLow, opcodeTableHigh], beq_iff_eq.2 (matches_formatX ..)⟩

theorem EncodingRow.loadRegs (x : Reg) : EncodingRow.Statement (.loadRegs x) :=
  ⟨by simp [Instr.opcodeRow, opcodeTable, opcodeTableLow, opcodeTableHigh], beq_iff_eq.2 (matches_formatX ..)⟩

end Sys2Proof.Laws
end

