-- ==== Sys2Proof/Laws/Step.lean ====
section
/-! SUPPORT. What a move of the machine can be, said once: the four kinds of move, and the two kinds of instruction step. -/

namespace Sys2Proof.Machine

variable {s t : State}

theorem step_running (h : s.running = true) : step s = fireEvent s.nextEvent s.takeEvent := by
  simp [step, nextMove, h]

theorem step_ended (h : s.running = false) (he : s.ended = true) : step s = .next s := by
  simp [step, nextMove, h, he]

theorem step_boot (h : s.running = false) (he : s.ended = false) : step s = .next s.run := by
  simp [step, nextMove, h, he]

theorem fireEvent_stopped (h : s.running = false) (e : Event) : fireEvent e s = .next s := by
  simp [fireEvent, h]

theorem fireEvent_step (h : s.running = true) (r : Byte) : fireEvent (.step r) s = s.instrStep r := by
  simp [fireEvent, h]

theorem fireEvent_tick (h : s.running = true) (m : KeyMask) : fireEvent (.tick m) s = .next (s.tick m) := by
  simp [fireEvent, h]

theorem fireEvent_stop (h : s.running = true) : fireEvent .stop s = .next s.stopRun := by
  simp [fireEvent, h]

theorem instrStep_of_decode {i : Instr} (h : decodeWord s.fetchWord = .ok i) (r : Byte) :
    s.instrStep r = exec i (s.setRand r).advancePc := by
  simp [State.instrStep, h]

theorem instrStep_of_reject {e : Unrecognised} (h : decodeWord s.fetchWord = .error e) (r : Byte) :
    s.instrStep r = .next (s.setRand r).advancePc := by
  simp [State.instrStep, h]

@[simp] theorem nextEvent_cons (e : Event) (es : List Event) (h : s.inputs = e :: es) : s.nextEvent = e := by
  simp [State.nextEvent, h]

/-- An instruction step is the meaning of the decoded instruction or the no-op. -/
theorem instrStep_cases {r : Byte} (h : s.instrStep r = .next t) :
    (∃ i, decodeWord s.fetchWord = .ok i ∧ exec i (s.setRand r).advancePc = .next t) ∨
    (∃ e, decodeWord s.fetchWord = .error e ∧ t = (s.setRand r).advancePc) := by
  cases hd : decodeWord s.fetchWord with
  | ok i => rw [instrStep_of_decode hd] at h; exact .inl ⟨i, rfl, h⟩
  | error e =>
    rw [instrStep_of_reject hd] at h
    exact .inr ⟨e, rfl, by cases h; rfl⟩

/-- One event is nothing at all, an instruction step, a tick or the stop. -/
theorem fireEvent_cases {e : Event} (h : fireEvent e s = .next t) :
    (s.running = false ∧ t = s) ∨
    (s.running = true ∧ ∃ r, e = .step r ∧ s.instrStep r = .next t) ∨
    (s.running = true ∧ ∃ m, e = .tick m ∧ t = s.tick m) ∨
    (s.running = true ∧ e = .stop ∧ t = s.stopRun) := by
  cases hr : s.running with
  | false => rw [fireEvent_stopped hr] at h; exact .inl ⟨rfl, by cases h; rfl⟩
  | true =>
    cases e with
    | step r => rw [fireEvent_step hr] at h; exact .inr (.inl ⟨rfl, r, rfl, h⟩)
    | tick m => rw [fireEvent_tick hr] at h; exact .inr (.inr (.inl ⟨rfl, m, rfl, by cases h; rfl⟩))
    | stop => rw [fireEvent_stop hr] at h; exact .inr (.inr (.inr ⟨rfl, rfl, by cases h; rfl⟩))

/-- A move of the machine fires the next event, boots a machine that has not run, or rests after the end. -/
theorem step_cases (h : step s = .next t) :
    (s.running = true ∧ fireEvent s.nextEvent s.takeEvent = .next t) ∨
    (s.running = false ∧ s.ended = true ∧ t = s) ∨
    (s.running = false ∧ s.ended = false ∧ t = s.run) := by
  cases hr : s.running with
  | true => rw [step_running hr] at h; exact .inl ⟨rfl, h⟩
  | false =>
    cases he : s.ended with
    | true => rw [step_ended hr he] at h; exact .inr (.inl ⟨rfl, rfl, by cases h; rfl⟩)
    | false => rw [step_boot hr he] at h; exact .inr (.inr ⟨rfl, rfl, by cases h; rfl⟩)

@[simp] theorem runEvents_nil : runEvents [] s = .next s := rfl

theorem runEvents_cons {e : Event} {es : List Event} (h : fireEvent e s = .next t) :
    runEvents (e :: es) s = runEvents es t := by
  simp [runEvents, h]

end Sys2Proof.Machine
end

