-- ==== Sys2Proof/Tests/Slice0.lean ====
section
/-! SUPPORT. The model's own tests. Expected values are those of spec/95_test_vectors.md (the vector is named beside each) or
worked out by hand from the rule named. Then the witnesses: for each statement with hypotheses, a state and operands that
meet them all. -/

namespace Sys2Proof.Tests

open Sys2Proof.Machine

/-! ## Helpers -/

/-- What a next state shows; false for a fault or a refusal. -/
def sees (o : Host.Outcome State Fault Refusal) (p : State → Bool) : Bool :=
  match o with
  | .next t => p t
  | .fault _ => false
  | .refused _ => false

/-- The machine after reset with some registers set. -/
def regs (vs : List (Reg × Byte)) : State := vs.foldl (fun s p => s.setV p.1 p.2) State.reset

/-- Some bytes of memory set, by address. -/
def bytes (s : State) (ms : List (Nat × Byte)) : State := ms.foldl (fun s p => s.writeByte p.1 p.2) s

/-- One step on a word placed at PC. -/
def ran (s : State) (w : Nat) : Host.Outcome State Fault Refusal := step (s.withFetchWord 16 w)

/-- A configuration with the quirk off. -/
def quirkOff (s : State) : State := { s with config := { s.config with quirkLogicVfReset := false } }

/-- A machine with the two key masks set. -/
def keys (s : State) (last cur : KeyMask) : State := { s with keysLast := last, keysCur := cur }

/-- Cells of one row, from column 0 on. -/
def row (s : State) (y n : Nat) : List Bool := (List.range n).map fun x => s.disp.cell x y

/-! ## Well-formedness: what the checks refuse -/

theorem test_default_config_is_allowed : defaultConfig.wf = true := by decide

theorem test_font_past_reserved_region_is_refused :
    ({ defaultConfig with fontBase := 0x1B1 } : Config).fontFits = false ∧
    ({ defaultConfig with fontBase := 0x1B0 } : Config).fontFits = true := by decide

theorem test_font_of_79_bytes_is_refused :
    ({ defaultConfig with fontData := defaultConfig.fontData.drop 1 } : Config).wf = false := by decide

/-- Vectors I-1 and I-2. -/
theorem test_image_length_bound :
    imageFits (List.replicate 3584 0xFF) = true ∧ imageFits (List.replicate 3585 0xFF) = false := by
  simp only [imageFits, List.length_replicate]
  decide

/-! ## Decoding: one word of every row, written out from the layouts of R73 and the opcodes of R75 -/

theorem test_decode_fixed_and_addresses :
    decodeWord 0b0000000011100000 = .ok .cls ∧ decodeWord 0b0000000011101110 = .ok .ret ∧
    decodeWord 0b0001001000110100 = .ok (.jp 0x234) ∧ decodeWord 0b0010010000000000 = .ok (.call 0x400) ∧
    decodeWord 0b1010001100000000 = .ok (.ldI 0x300) ∧ decodeWord 0b1011111111111111 = .ok (.jpV0 0xFFF) := ⟨rfl, rfl, rfl, rfl, rfl, rfl⟩

theorem test_decode_register_and_byte :
    decodeWord 0b0011001101000010 = .ok (.seImm 3 0x42) ∧ decodeWord 0b0100001101000010 = .ok (.sneImm 3 0x42) ∧
    decodeWord 0b0110101000000101 = .ok (.ldImm 0xA 0x05) ∧ decodeWord 0b0111111100000001 = .ok (.addImm 0xF 0x01) ∧
    decodeWord 0b1100010000001111 = .ok (.rnd 4 0x0F) := ⟨rfl, rfl, rfl, rfl, rfl⟩

theorem test_decode_two_registers :
    decodeWord 0b0101000100100000 = .ok (.seReg 1 2) ∧ decodeWord 0b1001000100100000 = .ok (.sneReg 1 2) ∧
    decodeWord 0b1000000101010000 = .ok (.ldReg 1 5) ∧ decodeWord 0b1000000100100001 = .ok (.orReg 1 2) ∧
    decodeWord 0b1000000100100010 = .ok (.andReg 1 2) ∧ decodeWord 0b1000000100100011 = .ok (.xorReg 1 2) ∧
    decodeWord 0b1000000100100100 = .ok (.addReg 1 2) ∧ decodeWord 0b1000000100100101 = .ok (.sub 1 2) ∧
    decodeWord 0b1000001101000110 = .ok (.shr 3 4) ∧ decodeWord 0b1000000100100111 = .ok (.subn 1 2) ∧
    decodeWord 0b1000001101001110 = .ok (.shl 3 4) ∧ decodeWord 0b1101000100100101 = .ok (.drw 1 2 5) := ⟨rfl, rfl, rfl, rfl, rfl, rfl, rfl, rfl, rfl, rfl, rfl, rfl⟩

theorem test_decode_one_register :
    decodeWord 0b1110000110011110 = .ok (.skp 1) ∧ decodeWord 0b1110000110100001 = .ok (.sknp 1) ∧
    decodeWord 0b1111010100000111 = .ok (.ldFromDt 5) ∧ decodeWord 0b1111001000001010 = .ok (.ldKey 2) ∧
    decodeWord 0b1111010100010101 = .ok (.ldDt 5) ∧ decodeWord 0b1111010100011000 = .ok (.ldSt 5) ∧
    decodeWord 0b1111001000011110 = .ok (.addI 2) ∧ decodeWord 0b1111000000101001 = .ok (.ldFont 0) ∧
    decodeWord 0b1111101000110011 = .ok (.ldBcd 0xA) ∧ decodeWord 0b1111001001010101 = .ok (.saveRegs 2) ∧
    decodeWord 0b1111001001100101 = .ok (.loadRegs 2) := ⟨rfl, rfl, rfl, rfl, rfl, rfl, rfl, rfl, rfl, rfl, rfl⟩

/-- Vectors E-1 to E-6, A-35. -/
theorem test_decode_unrecognised :
    decodeWord 0x0000 = .error .class0 ∧ decodeWord 0x0123 = .error .class0 ∧ decodeWord 0x01E0 = .error .class0 ∧
    decodeWord 0x5121 = .error .class5 ∧ decodeWord 0x9121 = .error .class9 ∧ decodeWord 0x8128 = .error .class8 ∧
    decodeWord 0x812F = .error .class8 ∧ decodeWord 0xE19F = .error .classE ∧ decodeWord 0xF100 = .error .classF ∧
    decodeWord 0xF1FF = .error .classF := ⟨rfl, rfl, rfl, rfl, rfl, rfl, rfl, rfl, rfl, rfl⟩

theorem test_decode_needs_two_bytes : decodeBytes [0x60] = .error .truncated := rfl

/-- A word of the table numbering, and the bits above the width taken as 0. -/
theorem test_table_word :
    decodeTableWord 16 0x6A05 = some (.ldImm 0xA 0x05) ∧ decodeTableWord 16 0x0000 = none := by decide

theorem test_opcode_table_has_34_disjoint_rows :
    opcodeTable.length = 34 ∧ opcodeTable.Pairwise fun r q => r.disjointFrom q = true := by decide

/-! ## Control flow -/

/-- CF-1. -/
theorem test_jp : sees (ran State.reset 0x1ABC) (fun t => t.pc == 0xABC) = true := by decide

/-- CF-3. -/
theorem test_call_top_slot :
    sees (ran (State.reset.setSp 0x0F) 0x2400)
      (fun t => t.getSlot 15 == 0x0202 && t.sp == 0x10 && t.pc == 0x400) = true := by decide

/-- CF-5. -/
theorem test_call_wraps_sp :
    sees (ran (State.reset.setSp 0xFF) 0x2400) (fun t => t.getSlot 15 == 0x0202 && t.sp == 0) = true := by decide

/-- CF-6. -/
theorem test_ret_on_empty_stack :
    sees (ran State.reset 0x00EE) (fun t => t.sp == 0xFF && t.pc == 0) = true := by decide

/-- CF-7. -/
theorem test_ret_aliases :
    sees (ran ((State.reset.setSp 0x11).setSlot 0 0x0202) 0x00EE) (fun t => t.sp == 0x10 && t.pc == 0x202) = true := by
  decide

/-- CF-8 and CF-9. -/
theorem test_seImm :
    sees (ran (regs [(3, 0x42)]) 0x3342) (fun t => t.pc == 0x204) = true ∧
    sees (ran (regs [(3, 0x43)]) 0x3342) (fun t => t.pc == 0x202) = true := by decide

/-- CF-11 and CF-12. -/
theorem test_sneImm :
    sees (ran (regs [(3, 0x43)]) 0x4342) (fun t => t.pc == 0x204) = true ∧
    sees (ran (regs [(3, 0x42)]) 0x4342) (fun t => t.pc == 0x202) = true := by decide

/-- CF-20: the advance and the skip wrap. -/
theorem test_skip_wraps_pc :
    sees (ran ((regs [(3, 0x42)]).setPc 0xFFFE) 0x3342) (fun t => t.pc == 2) = true := by decide

/-- CF-13 and CF-14. -/
theorem test_seReg :
    sees (ran (regs [(4, 9)]) 0x5440) (fun t => t.pc == 0x204) = true ∧
    sees (ran (regs [(1, 1), (2, 2)]) 0x5120) (fun t => t.pc == 0x202) = true := by decide

/-- CF-15 and CF-16. -/
theorem test_sneReg :
    sees (ran (regs [(4, 9)]) 0x9440) (fun t => t.pc == 0x202) = true ∧
    sees (ran (regs [(1, 1), (2, 2)]) 0x9120) (fun t => t.pc == 0x204) = true := by decide

/-- CF-18. -/
theorem test_jpV0 : sees (ran (regs [(0, 0xFF)]) 0xBFFF) (fun t => t.pc == 0x10FE) = true := by decide

/-! ## Arithmetic and logic -/

/-- A-1. -/
theorem test_ldImm : sees (ran State.reset 0x6AFF) (fun t => t.getV 0xA == 0xFF) = true := by decide

/-- A-2 and A-3. -/
theorem test_addImm :
    sees (ran (regs [(2, 0xFF), (VF, 0x5A)]) 0x7201) (fun t => t.getV 2 == 0 && t.getV VF == 0x5A) = true ∧
    sees (ran (regs [(VF, 0xFF)]) 0x7F01) (fun t => t.getV VF == 0) = true := by decide

/-- A-4. -/
theorem test_ldReg : sees (ran (regs [(5, 0x9C)]) 0x8150) (fun t => t.getV 1 == 0x9C) = true := by decide

/-- A-5. -/
theorem test_or :
    sees (ran (regs [(1, 0x0C), (2, 0x30), (VF, 1)]) 0x8121) (fun t => t.getV 1 == 0x3C && t.getV VF == 0) = true ∧
    sees (ran (quirkOff (regs [(1, 0x0C), (2, 0x30), (VF, 1)])) 0x8121)
      (fun t => t.getV 1 == 0x3C && t.getV VF == 1) = true := by decide

/-- A-8. -/
theorem test_or_into_vf :
    sees (ran (regs [(VF, 0x0F), (1, 0xF0)]) 0x8F11) (fun t => t.getV VF == 0) = true ∧
    sees (ran (quirkOff (regs [(VF, 0x0F), (1, 0xF0)])) 0x8F11) (fun t => t.getV VF == 0xFF) = true := by decide

/-- A-6. -/
theorem test_and :
    sees (ran (regs [(1, 0x3C), (2, 0x0F), (VF, 1)]) 0x8122) (fun t => t.getV 1 == 0x0C && t.getV VF == 0) = true := by
  decide

/-- A-7. -/
theorem test_xor :
    sees (ran (regs [(1, 0xFF), (2, 0x0F), (VF, 1)]) 0x8123) (fun t => t.getV 1 == 0xF0 && t.getV VF == 0) = true := by
  decide

/-- A-10 and A-14. -/
theorem test_addReg :
    sees (ran (regs [(1, 0xFF), (2, 1)]) 0x8124) (fun t => t.getV 1 == 0 && t.getV VF == 1) = true ∧
    sees (ran (regs [(VF, 0x10), (1, 0xF5)]) 0x8F14) (fun t => t.getV VF == 1) = true := by decide

/-- A-15: the old VF is the addend. -/
theorem test_addReg_of_vf :
    sees (ran (regs [(VF, 1), (1, 0xFF)]) 0x81F4) (fun t => t.getV 1 == 0 && t.getV VF == 1) = true := by decide

/-- A-16 and A-17. -/
theorem test_sub :
    sees (ran (regs [(1, 5), (2, 5)]) 0x8125) (fun t => t.getV 1 == 0 && t.getV VF == 1) = true ∧
    sees (ran (regs [(1, 3), (2, 5)]) 0x8125) (fun t => t.getV 1 == 0xFE && t.getV VF == 0) = true := by decide

/-- A-23 and A-24. -/
theorem test_shr :
    sees (ran (regs [(3, 4), (4, 0xFF)]) 0x8346) (fun t => t.getV 3 == 2 && t.getV VF == 0) = true ∧
    sees (ran (regs [(VF, 3)]) 0x8F06) (fun t => t.getV VF == 1) = true := by decide

/-- A-25 and A-26. -/
theorem test_subn :
    sees (ran (regs [(1, 5), (2, 7)]) 0x8127) (fun t => t.getV 1 == 2 && t.getV VF == 1) = true ∧
    sees (ran (regs [(1, 7), (2, 5)]) 0x8127) (fun t => t.getV 1 == 0xFE && t.getV VF == 0) = true := by decide

/-- A-30 and A-29. -/
theorem test_shl :
    sees (ran (regs [(3, 0x81)]) 0x834E) (fun t => t.getV 3 == 2 && t.getV VF == 1) = true ∧
    sees (ran (regs [(3, 0x7F)]) 0x830E) (fun t => t.getV 3 == 0xFE && t.getV VF == 0) = true := by decide

/-- A-32. -/
theorem test_rnd :
    sees (ran (State.reset.setRand 0xA7) 0xC40F) (fun t => t.getV 4 == 7) = true := by decide

/-! ## Address register and memory -/

/-- M-1. -/
theorem test_ldI : sees (ran State.reset 0xA123) (fun t => t.i == 0x123) = true := by decide

/-- M-2 and M-3. -/
theorem test_addI :
    sees (ran ((regs [(2, 2)]).setI 0x0FFF) 0xF21E) (fun t => t.i == 0x1001 && t.getV VF == 0) = true ∧
    sees (ran ((regs [(2, 1)]).setI 0xFFFF) 0xF21E) (fun t => t.i == 0) = true := by decide

/-- M-4 and M-5. -/
theorem test_ldFont :
    sees (ran (regs [(0, 0x0F)]) 0xF029) (fun t => t.i == 0x9B) = true ∧
    sees (ran (regs [(0, 0x1A)]) 0xF029) (fun t => t.i == 0x82) = true := by decide

/-- M-6. -/
theorem test_ldBcd :
    sees (ran ((regs [(5, 0xFF)]).setI 0x300) 0xF533)
      (fun t => [t.readByte 0x300, t.readByte 0x301, t.readByte 0x302] == [2, 5, 5]) = true := by decide

/-- M-9. -/
theorem test_ldBcd_wraps :
    sees (ran ((regs [(5, 0x7B)]).setI 0xFFE) 0xF533)
      (fun t => [t.readByte 0xFFE, t.readByte 0xFFF, t.readByte 0] == [1, 2, 3]) = true := by decide

/-- M-12. -/
theorem test_saveRegs_wraps :
    sees (ran ((regs [(0, 0x11), (1, 0x22)]).setI 0xFFF) 0xF155)
      (fun t => t.readByte 0xFFF == 0x11 && t.readByte 0 == 0x22 && t.i == 0xFFF) = true := by decide

/-- M-10. -/
theorem test_saveRegs_stops_at_x :
    sees (ran ((regs [(0, 0xAA), (1, 0xBB)]).setI 0x400) 0xF055)
      (fun t => t.readByte 0x400 == 0xAA && t.readByte 0x401 == 0) = true := by decide

/-- M-14, and the two ends of M-13. -/
theorem test_loadRegs :
    sees (ran (bytes ((regs [(1, 9)]).setI 0x400) [(0x400, 0x7E), (0x401, 0x7F)]) 0xF065)
      (fun t => t.getV 0 == 0x7E && t.getV 1 == 9) = true ∧
    sees (ran (bytes (State.reset.setI 0x400) [(0x400, 0xF0), (0x40F, 0xFF)]) 0xFF65)
      (fun t => t.getV 0 == 0xF0 && t.getV VF == 0xFF && t.i == 0x400) = true := by decide

/-- Writing what an unlisted address reads as takes the byte off the list (R50; assumption 8). -/
theorem test_memory_keeps_its_form :
    Memory.write defaultConfig [(0x050, 0x11), (0x300, 0x22)] 0x050 0xF0 = [(0x300, 0x22)] ∧
    Memory.write defaultConfig [(0x300, 0x22)] 0x200 0x33 = [(0x200, 0x33), (0x300, 0x22)] := by decide

/-- E-7 and E-8. -/
theorem test_fetch :
    (bytes (State.reset.setPc 0x201) [(0x201, 0x61), (0x202, 0x23)]).fetchWord = 0x6123 ∧
    (bytes (State.reset.setPc 0xFFF) [(0xFFF, 0x60), (0x000, 0x42)]).fetchWord = 0x6042 := by decide

/-! ## Display -/

/-- D-1, on the cells of one row. -/
theorem test_cls :
    sees (ran ((regs [(VF, 7)]).setDisp (blankDisplay.flip 3 4)) 0x00E0)
      (fun t => row t 4 8 == List.replicate 8 false && t.getV VF == 7 && displayChanges t.outputs == 1) = true := by
  decide

/-- D-3: clipped, not wrapped. -/
theorem test_drw_clips :
    sees (ran (bytes ((regs [(1, 60)]).setI 0x300) [(0x300, 0xFF)]) 0xD121)
      (fun t => row t 0 4 == [false, false, false, false] && t.disp.cell 60 0 && t.disp.cell 63 0
        && t.getV VF == 0) = true := by decide

/-- D-6: a collision. -/
theorem test_drw_collides :
    sees (ran (bytes (State.reset.setI 0x300) [(0x300, 0xC0)] |>.setDisp (blankDisplay.flip 0 0)) 0xD121)
      (fun t => row t 0 3 == [false, true, false] && t.getV VF == 1) = true := by decide

/-! ## Keys and timers -/

/-- T-4. -/
theorem test_skp :
    sees (ran (keys (regs [(1, 0x15)]) 0 0x0020) 0xE19E) (fun t => t.pc == 0x204) = true := by decide

/-- T-5 and T-6. -/
theorem test_sknp :
    sees (ran (keys (regs [(1, 5)]) 0 0x0020) 0xE1A1) (fun t => t.pc == 0x202) = true ∧
    sees (ran (keys (regs [(1, 5)]) 0 0) 0xE1A1) (fun t => t.pc == 0x204) = true := by decide

/-- T-1. -/
theorem test_ldFromDt : sees (ran (State.reset.setDt 0x3C) 0xF507) (fun t => t.getV 5 == 0x3C) = true := by decide

/-- T-2 and T-3. -/
theorem test_timer_writes :
    sees (ran (regs [(5, 0x3C)]) 0xF515) (fun t => t.dt == 0x3C && t.st == 0) = true ∧
    sees (ran (regs [(5, 2)]) 0xF518) (fun t => t.st == 2 && t.dt == 0) = true := by decide

/-- T-7 and T-9: neither key F nor a press ends the wait. -/
theorem test_ldKey_waits :
    sees (ran (keys State.reset 0x8000 0) 0xF20A) (fun t => t.pc == 0x200 && t.getV 2 == 0) = true ∧
    sees (ran (keys State.reset 0 1) 0xF20A) (fun t => t.pc == 0x200) = true := by decide

/-- T-8 and T-10. -/
theorem test_ldKey_takes_the_lowest :
    sees (ran (keys State.reset 0x0006 0) 0xF20A) (fun t => t.pc == 0x202 && t.getV 2 == 1) = true ∧
    sees (ran (keys State.reset 0x0401 1) 0xFF0A) (fun t => t.pc == 0x202 && t.getV VF == 0xA) = true := by decide

/-- T-11. -/
theorem test_tick :
    sees (fireEvent (.tick 0x0010) (keys (State.reset.run.setDt 0x3C) 0 3))
      (fun t => t.dt == 0x3B && t.st == 0 && t.keysLast == 3 && t.keysCur == 0x10) = true := by decide

/-- T-12. -/
theorem test_tick_floors_at_zero :
    sees (fireEvent (.tick 0) (State.reset.run.setSt 1)) (fun t => t.dt == 0 && t.st == 0) = true := by decide

/-! ## Boot and schedule -/

/-- E-1, and assumption 5: from reset the first move is run(), and 0x0000 at 0x200 is a no-op. -/
theorem test_boot :
    sees (step State.reset) (fun t => t.running && t.pc == 0x200) = true ∧
    sees (ran State.reset 0x0000) (fun t => t.pc == 0x202) = true := by decide

/-- I-4, at the ends of the font and of a two-byte program (R53, R55). -/
theorem test_init_memory :
    sees (State.init defaultConfig (some [0x12, 0x34])) (fun t =>
      [t.readByte 0x04F, t.readByte 0x050, t.readByte 0x09F, t.readByte 0x0A0] == [0, 0xF0, 0x80, 0]
        && [t.readByte 0x1FF, t.readByte 0x200, t.readByte 0x201, t.readByte 0x202] == [0, 0x12, 0x34, 0]
        && t.pc == 0x200) = true := by decide

/-- The tick is due at the first nanosecond past a sixtieth of a second (R231). -/
theorem test_tick_due : due 16666666 0 60 = false ∧ due 16666667 0 60 = true := by decide

/-! ## Witnesses: the hypotheses of each statement can be met -/

/-- The machine after reset about to run `LD VA, 0x05`. -/
abbrev loading : State := State.reset.withFetchWord 16 0x6A05

/-- The machine after reset about to run a given word. -/
abbrev about (w : Nat) : State := State.reset.withFetchWord 16 w

/-- The machine running with a given event next. -/
abbrev nextIs (e : Event) : State := { State.reset.run with inputs := [e] }

theorem witness_EncodeInvertsDecode : decodeWord 0xD125 = .ok (.drw 1 2 5) := rfl

theorem witness_StepRunsDecodedInstruction :
    loading.running = true ∧ loading.nextEvent = .step 0 ∧ decodeWord loading.fetchWord = .ok (.ldImm 0xA 0x05) :=
  ⟨rfl, rfl, rfl⟩

theorem witness_UnrecognisedWordIsANoOp :
    (about 0x5121).running = true ∧ (about 0x5121).nextEvent = .step 0 ∧
    decodeWord (about 0x5121).fetchWord = .error .class5 := ⟨rfl, rfl, rfl⟩

/-- The state of `u` is the one the call left. -/
theorem witness_ReturnUndoesCall :
    ∃ t, exec (.call 0x400) (State.reset.setPc 0x302) = .next t ∧ t.sp = t.sp ∧ ∀ j, t.getSlot j = t.getSlot j :=
  ⟨_, rfl, rfl, fun _ => rfl⟩

/-- One state for each way PC can change: none, a taken skip, an overwrite, a rewind. -/
theorem witness_PcChangesOnlyInTheseWays :
    (∃ t, exec .cls State.reset = .next t ∧ t.pc = State.reset.pc) ∧
    (∃ t, exec (.seImm 0 0) State.reset = .next t ∧ t.pc = State.reset.pc + 2) ∧
    (∃ t, exec (.jp 0x400) State.reset = .next t ∧ t.pc = 0x400) ∧
    ∃ t, exec (.ldKey 0) State.reset = .next t ∧ t.pc = State.reset.pc - 2 :=
  ⟨⟨_, rfl, rfl⟩, ⟨_, rfl, rfl⟩, ⟨_, rfl, rfl⟩, ⟨_, rfl, rfl⟩⟩

/-- The premise of each of the three instructions, and each value of the quirk. -/
theorem witness_LogicWritesVxThenTheQuirk :
    (Instr.orReg 1 2 = .orReg 1 2 ∧ or = or) ∧ (Instr.andReg 1 2 = .andReg 1 2 ∧ and = and) ∧
    (Instr.xorReg 1 2 = .xorReg 1 2 ∧ xor = xor) ∧ State.reset.config.quirkLogicVfReset = true ∧
    (quirkOff State.reset).config.quirkLogicVfReset = false ∧ (1 : Reg) ≠ VF := by decide

/-- Both clauses of the result: x other than 0xF, and x = 0xF, for which only the flag is stated. -/
theorem witness_flag_results : (1 : Reg) ≠ VF ∧ ¬(VF ≠ VF) := by decide

theorem witness_RandomByteComesWithTheStep :
    (about 0xC40F).running = true ∧ (about 0xC40F).nextEvent = .step 0 ∧
    decodeWord (about 0xC40F).fetchWord = .ok (.rnd 4 0x0F) := ⟨rfl, rfl, rfl⟩

theorem witness_FontPointsAtTheGlyph : State.reset.config.wf = true := by decide

theorem witness_LoadRestoresWhatSaveStored :
    ∃ t, exec (.saveRegs 3) (regs [(3, 7)]) = .next t ∧ t.i = t.i ∧ ∀ a, t.readByte a = t.readByte a :=
  ⟨_, rfl, rfl, fun _ => rfl⟩

/-- FX55 at 0x200 with I at 0x202, the next word to be fetched: V0 falls in its high half and V1 in its low half. -/
theorem witness_StoreIsVisibleToTheNextFetch :
    let s := (State.reset.setI 0x202).withFetchWord 16 0xF155
    s.running = true ∧ s.nextEvent = .step 0 ∧ decodeWord s.fetchWord = .ok (.saveRegs 1) ∧
    s.indexed 0 % 4096 = (s.pc + 2).toNat % 4096 ∧ s.indexed 1 % 4096 = ((s.pc + 2).toNat + 1) % 4096 :=
  ⟨rfl, rfl, rfl, rfl, rfl⟩

theorem witness_CanonicalMemoryIsItsBytes :
    Memory.wf defaultConfig [(0x300, 0x11)] ∧
    ∀ a < 4096, Memory.read defaultConfig [(0x300, 0x11)] a = Memory.read defaultConfig [(0x300, 0x11)] a :=
  ⟨by decide, fun _ _ => rfl⟩

/-- A sprite drawn over a set cell collides, and over clear cells it does not: both clauses of the flag. -/
theorem witness_DrawXorsTheClippedSprite :
    let s := bytes (State.reset.setI 0x300) [(0x300, 0x80)]
    let d := s.setDisp (blankDisplay.flip 0 0)
    (d.spritePixel 0 0 1 0 0 = true ∧ d.disp.cell 0 0 = true) ∧
    (s.spritePixel 0 0 1 0 0 = true ∧ s.disp.cell 0 0 = false) := by decide

theorem witness_DrawTwiceRestoresTheDisplay :
    (1 : Reg) ≠ VF ∧ (2 : Reg) ≠ VF ∧
    ∃ t u, exec (.drw 1 2 1) State.reset = .next t ∧ exec (.drw 1 2 1) t = .next u :=
  ⟨by decide, by decide, _, _, rfl, rfl⟩

theorem witness_OnlyClearAndDrawTouchTheDisplay :
    (∃ t, exec (.jp 0x400) State.reset = .next t) ∧ Instr.jp 0x400 ≠ .cls ∧ ∀ x y n, Instr.jp 0x400 ≠ .drw x y n :=
  ⟨⟨_, rfl⟩, nofun, nofun⟩

/-- Each kind of instruction that the count tells apart. -/
theorem witness_DisplayChangedOncePerClearOrDraw :
    (∃ t, exec .cls State.reset = .next t) ∧ (∃ t, exec (.drw 1 2 0) State.reset = .next t) ∧
    ∃ t, exec (.jp 0x400) State.reset = .next t := ⟨⟨_, rfl⟩, ⟨_, rfl⟩, ⟨_, rfl⟩⟩

/-- The first clause at the lowest and at the highest key it speaks of, and the second when only key 0xF is released. -/
theorem witness_KeyWaitTakesTheLowestRelease :
    (let s := keys State.reset 0x0001 0
     s.keysLast.getLsbD 0 = true ∧ s.keysCur.getLsbD 0 = false ∧
       ∀ j < 0, ¬(s.keysLast.getLsbD j = true ∧ s.keysCur.getLsbD j = false)) ∧
    (let s := keys State.reset 0x4000 0
     s.keysLast.getLsbD 14 = true ∧ s.keysCur.getLsbD 14 = false ∧
       ∀ j < 14, ¬(s.keysLast.getLsbD j = true ∧ s.keysCur.getLsbD j = false)) ∧
    (let s := keys State.reset 0x8000 0
     ∀ k < 15, ¬(s.keysLast.getLsbD k = true ∧ s.keysCur.getLsbD k = false)) := by decide

theorem witness_KeyWaitIsABusyWait :
    (about 0xF20A).running = true ∧ (about 0xF20A).nextEvent = .step 0 ∧
    decodeWord (about 0xF20A).fetchWord = .ok (.ldKey 2) ∧
    ∀ k < 15, ¬((about 0xF20A).keysLast.getLsbD k = true ∧ (about 0xF20A).keysCur.getLsbD k = false) :=
  ⟨rfl, rfl, rfl, by decide⟩

/-- The first clause at keys 0 and 14, and the second for a press of key 0 with a release of key 15. -/
theorem witness_ReleaseBetweenTwoSamplesEndsTheWait :
    State.reset.run.running = true ∧
    ((0x0001#16).getLsbD 0 = true ∧ (0x0000#16).getLsbD 0 = false ∧
      ∀ j < 0, (0x0001#16).getLsbD j = true → (0x0000#16).getLsbD j = true) ∧
    ((0x4000#16).getLsbD 14 = true ∧ (0x0000#16).getLsbD 14 = false ∧
      ∀ j < 14, (0x4000#16).getLsbD j = true → (0x0000#16).getLsbD j = true) ∧
    ∀ k < 15, (0x8000#16).getLsbD k = true → (0x0001#16).getLsbD k = true := by decide

theorem witness_TickUpdatesTimersAndLatch :
    (nextIs (.tick 0x0010)).running = true ∧ (nextIs (.tick 0x0010)).nextEvent = .tick 0x0010 := ⟨rfl, rfl⟩

theorem witness_TicksCountTimersDownToZero : State.reset.run.running = true := rfl

theorem witness_TicksAreInvisibleToOtherInstructions :
    (∃ t, exec (.jp 0x400) State.reset = .next t) ∧
    ∀ x, Instr.jp 0x400 ≠ .skp x ∧ Instr.jp 0x400 ≠ .sknp x ∧ Instr.jp 0x400 ≠ .ldFromDt x ∧ Instr.jp 0x400 ≠ .ldKey x :=
  ⟨⟨_, rfl⟩, fun _ => ⟨nofun, nofun, nofun, nofun⟩⟩

/-- The premise of RegistersWrittenAreTheTables, EachPartHasItsWriters and NoInstructionTouchesTheOutside. -/
theorem witness_an_instruction_answers : ∃ t, exec (.addReg 1 2) State.reset = .next t := ⟨_, rfl⟩

/-- The other register file differs in a register that the instruction does not read. -/
theorem witness_RegistersReadAreTheTables :
    (∃ t, exec (.addReg 1 2) State.reset = .next t) ∧
    ∀ z ∈ (Instr.addReg 1 2).reads, ((regs [(3, 9)]).v)[z] = State.reset.getV z :=
  ⟨⟨_, rfl⟩, by decide⟩

theorem witness_InitLoadsFontAndProgram :
    defaultConfig.wf = true ∧ (List.replicate 3584 (0 : Byte)).length ≤ 3584 :=
  ⟨by decide, List.length_replicate.le⟩

theorem witness_InitRejectsOversizedAndUnreadable :
    defaultConfig.wf = true ∧ (List.replicate 3585 (0 : Byte)).length > 3584 :=
  ⟨by decide, by simp only [List.length_replicate]; decide⟩

theorem witness_FirstMoveIsRun : State.reset.running = false ∧ State.reset.ended = false := ⟨rfl, rfl⟩

theorem witness_StopEndsTheRun :
    (nextIs .stop).running = true ∧ (nextIs .stop).nextEvent = .stop := ⟨rfl, rfl⟩

theorem witness_InvariantKeptByEveryMove : State.reset.Inv ∧ ∃ t, step State.reset = .next t :=
  ⟨⟨by decide, by decide, by decide⟩, _, rfl⟩

theorem witness_EverySequenceOfEventsIsARun :
    let s : State := { State.reset.run with inputs := [.step 0xA7, .tick 0x0010, .stop] }
    s.running = true ∧ s.inputs = [.step 0xA7, .tick 0x0010] ++ [.stop] ∧
    Event.stop ∉ [Event.step 0xA7, Event.tick 0x0010] := ⟨rfl, rfl, by decide⟩

theorem witness_SelfJumpIdlesForEver : (about 0x1200).idle = true := by decide

theorem witness_SchedulerPassIsARunOfEvents : State.reset.run.running = true := rfl

end Sys2Proof.Tests
end

section
/-! The display as a part of the state that only 00E0 and DXYN touch (10_state.md R31). The one idea: replacing the display
commutes with every other instruction. That such an instruction keeps the display is the case of the display put in
its own place. -/

namespace Sys2Proof.Machine

variable (s : State) (d : Display)

theorem State.setDisp_disp_self : s.setDisp s.disp = s := rfl

theorem State.skipIf_setDisp (cond : Bool) : (s.setDisp d).skipIf cond = (s.skipIf cond).setDisp d := by
  cases cond <;> rfl

theorem State.setLogicResult_setDisp (x : Reg) (r : Byte) :
    (s.setDisp d).setLogicResult x r = (s.setLogicResult x r).setDisp d := by
  unfold State.setLogicResult
  rw [apply_ite (State.setDisp · d)]
  rfl

theorem State.storeRegs_setDisp (n : Nat) : (s.setDisp d).storeRegs n = (s.storeRegs n).setDisp d := by
  induction n with
  | zero => rfl
  | succ n ih => rw [State.storeRegs, ih]; rfl

theorem State.loadRegs_setDisp (n : Nat) : (s.setDisp d).loadRegs n = (s.loadRegs n).setDisp d := by
  induction n with
  | zero => rfl
  | succ n ih => rw [State.loadRegs, ih]; rfl

/-- 00E0 overwrites the display without a look at it. -/
theorem exec_cls_setDisp : exec .cls (s.setDisp d) = exec .cls s := rfl

theorem exec_ldKey_setDisp (x : Reg) :
    exec (.ldKey x) (s.setDisp d) = andThen (exec (.ldKey x) s) fun t => .next (t.setDisp d) := by
  cases h : releasedKey s.keysLast s.keysCur with
  | none => rw [exec_ldKey_waiting s x h, exec_ldKey_waiting (s.setDisp d) x h]; rfl
  | some k => rw [exec_ldKey_released s x k h, exec_ldKey_released (s.setDisp d) x k h]; rfl

/-- Replacing the display before an instruction or after it is the same, but for 00E0 and DXYN (R31). -/
theorem exec_setDisp {i : Instr} (hcls : i ≠ .cls) (hdrw : ∀ x y n, i ≠ .drw x y n) :
    exec i (s.setDisp d) = andThen (exec i s) fun t => .next (t.setDisp d) := by
  cases i with
  | cls => exact absurd rfl hcls
  | drw x y n => exact absurd rfl (hdrw x y n)
  | seImm | sneImm | seReg | sneReg | skp | sknp => exact congrArg _ (s.skipIf_setDisp d _)
  | orReg | andReg | xorReg => exact congrArg _ (s.setLogicResult_setDisp d _ _)
  | ldKey x => exact exec_ldKey_setDisp s d x
  | saveRegs => exact congrArg _ (s.storeRegs_setDisp d _)
  | loadRegs => exact congrArg _ (s.loadRegs_setDisp d _)
  | ret | jp | call | jpV0 | ldImm | addImm | ldReg | addReg | sub | shr | subn | shl | rnd | ldI | addI | ldFont | ldBcd
  | ldFromDt | ldDt | ldSt => rfl

variable {s} {i : Instr} {t : State}

theorem exec_setDisp_eq_next (h : exec i s = .next t) (hcls : i ≠ .cls) (hdrw : ∀ x y n, i ≠ .drw x y n) :
    exec i (s.setDisp d) = .next (t.setDisp d) := by
  rw [exec_setDisp s d hcls hdrw, h]
  rfl

theorem exec_disp (h : exec i s = .next t) (hcls : i ≠ .cls) (hdrw : ∀ x y n, i ≠ .drw x y n) : t.disp = s.disp := by
  have hself := exec_setDisp_eq_next s.disp h hcls hdrw
  rw [State.setDisp_disp_self, h] at hself
  calc t.disp = (t.setDisp s.disp).disp := congrArg State.disp (Host.Outcome.next.inj hself)
    _ = s.disp := State.setDisp_disp t s.disp

theorem OnlyChanges.refl (parts : List Part) (s : State) : OnlyChanges parts s s := by
  intro p _
  cases p <;> simp [Part.Same]

theorem State.onlyChanges_setDisp (s : State) (d : Display) : OnlyChanges [.display] s (s.setDisp d) := by
  intro p hp
  cases p with
  | display => simp at hp
  | _ => simp [Part.Same]

theorem OnlyChanges.mono {parts more : List Part} (hsub : parts ⊆ more) (h : OnlyChanges parts s t) :
    OnlyChanges more s t :=
  fun p hp => h p fun hmem => hp (hsub hmem)

/-- With another display in its place, an instruction that is not DXYN does the same to all else. -/
theorem exec_setDisp_onlyChanges (h : exec i s = .next t) (hdrw : ∀ x y n, i ≠ .drw x y n) :
    ∃ u, exec i (s.setDisp d) = .next u ∧ OnlyChanges [.display] t u := by
  by_cases hcls : i = .cls
  · subst hcls
    exact ⟨t, (exec_cls_setDisp s d).trans h, .refl _ t⟩
  · exact ⟨t.setDisp d, exec_setDisp_eq_next d h hcls hdrw, t.onlyChanges_setDisp d⟩

/-- Settles O38: replacing the display commutes with every instruction but 00E0, which forgets it, and DXYN. The history
of displays comes out the same too: of these instructions only 00E0 adds to it, and what it adds is the blank display. -/
theorem onlyClearAndDrawTouchTheDisplay : Obligations.OnlyClearAndDrawTouchTheDisplay := by
  unfold Obligations.OnlyClearAndDrawTouchTheDisplay
  refine ⟨fun i s t h hcls hdrw => exec_disp h hcls hdrw, fun s m => by simp, fun i s t d h hdrw => ?_⟩
  obtain ⟨u, hu, hframe⟩ := exec_setDisp_onlyChanges d h hdrw
  exact ⟨u, hu, hframe.mono (by simp)⟩

end Sys2Proof.Machine
end

section
/-! The step event on an unrecognised word (30_encoding.md R78). A step event takes the event off the list, latches its random
byte and advances PC before the word means anything; for an unrecognised word that is the whole move. -/

namespace Sys2Proof.Machine

variable {s : State} {r : Byte}

theorem step_stepEvent (hrun : s.running = true) (hev : s.nextEvent = .step r) : step s = s.takeEvent.instrStep r := by
  rw [step_running hrun, hev, fireEvent_step (by simpa using hrun)]

theorem State.takeEvent_fetchWord (s : State) : s.takeEvent.fetchWord = s.fetchWord := rfl

/-- An unrecognised word leaves the state that the step event has prepared. -/
theorem step_of_reject {e : Unrecognised} (hrun : s.running = true) (hev : s.nextEvent = .step r)
    (hbad : decodeWord s.fetchWord = .error e) : step s = .next ((s.takeEvent.setRand r).setPc (s.pc + 2)) := by
  rw [← s.takeEvent_fetchWord] at hbad
  rw [step_stepEvent hrun hev, instrStep_of_reject hbad]
  simp

/-- What a step event does around the meaning of the word: PC and the event's own bookkeeping, nothing else. -/
theorem State.onlyChanges_stepEvent (s : State) (r : Byte) (pc : Word16) :
    OnlyChanges [.pc, .rand, .inputs, .eventCount] s ((s.takeEvent.setRand r).setPc pc) := by
  intro p hp
  cases p with
  | pc | rand | inputs | eventCount => simp at hp
  | _ => simp [Part.Same]

/-- Settles O7: the move is the step event's preparation alone, which has the frame. -/
theorem unrecognisedWordIsANoOp : Obligations.UnrecognisedWordIsANoOp := by
  unfold Obligations.UnrecognisedWordIsANoOp
  intro s r e hrun hev hbad
  exact ⟨_, step_of_reject hrun hev hbad, State.setPc_pc .., s.onlyChanges_stepEvent r _⟩

end Sys2Proof.Machine
end

section
/-! Frames of the register updates that control flow uses. Each update changes its own part alone, and the frames of
updates made one after another add up (`OnlyChanges.trans`). -/

namespace Sys2Proof.Machine

variable {s t u : State}

theorem State.onlyChanges_setPc (s : State) (a : Word16) : OnlyChanges [.pc] s (s.setPc a) := by
  intro p hp
  cases p with
  | pc => simp at hp
  | _ => simp [Part.Same]

/-- A skip on a condition writes PC alone (R25). -/
theorem State.onlyChanges_skipIf (s : State) (cond : Bool) : OnlyChanges [.pc] s (s.skipIf cond) := by
  rw [State.skipIf_eq]
  exact s.onlyChanges_setPc _

theorem State.onlyChanges_setSp (s : State) (n : Byte) : OnlyChanges [.sp] s (s.setSp n) := by
  intro p hp
  cases p with
  | sp => simp at hp
  | _ => simp [Part.Same]

theorem State.onlyChanges_setSlot (s : State) (j : Fin 16) (w : Word16) : OnlyChanges [.stack] s (s.setSlot j w) := by
  intro p hp
  cases p with
  | stack => simp at hp
  | _ => simp [Part.Same]

/-- Each part is compared by equations, between values or at every index, so sameness is transitive. -/
theorem Part.Same.trans {p : Part} (hst : p.Same s t) (htu : p.Same t u) : p.Same s u := by
  cases p with
  | regs | stack | memory => exact fun k => (htu k).trans (hst k)
  | display => exact fun x y => (htu x y).trans (hst x y)
  | _ => exact Eq.trans htu hst

theorem OnlyChanges.trans {parts more : List Part} (hst : OnlyChanges parts s t) (htu : OnlyChanges more t u) :
    OnlyChanges (parts ++ more) s u := by
  intro p hp
  obtain ⟨hparts, hmore⟩ := not_or.mp (List.mem_append.not.mp hp)
  exact (hst p hparts).trans (htu p hmore)

end Sys2Proof.Machine
end

section
/-! Jump, call, return and the skips on an immediate (40_control_flow.md R100 to R104). -/

namespace Sys2Proof.Machine

/-- An address field is extended by zeros (R72). -/
theorem absolute_toNat (addr : Addr) : (absolute addr).toNat = addr.toNat :=
  BitVec.toNat_setWidth_of_le (by decide)

/-- The slot of a stack pointer is the one whose number is SP mod 16 (R26). -/
theorem eq_stackSlot_iff (j : Fin 16) (sp : Byte) : j = stackSlot sp ↔ j.val = sp.toNat % 16 := Fin.ext_iff

/-- Settles O9: the jump is one write of PC. -/
theorem jumpSetsPc : Obligations.JumpSetsPc := by
  unfold Obligations.JumpSetsPc
  intro s addr
  exact ⟨_, exec_jp s addr, absolute_toNat addr, s.onlyChanges_setPc _⟩

/-- Settles O10: the call is a write of the slot, of SP and of PC, and the slot it writes is the one SP names before it is
counted up. -/
theorem callPushesTheReturnAddress : Obligations.CallPushesTheReturnAddress := by
  unfold Obligations.CallPushesTheReturnAddress
  intro s addr
  refine ⟨_, exec_call s addr, fun j hj => ?pushed, fun j hj => ?kept, ?sp, absolute_toNat addr, ?frame⟩
  case pushed =>
    rw [(eq_stackSlot_iff j s.sp).mpr hj]
    simp
  case kept =>
    have hne : j ≠ stackSlot s.sp := (eq_stackSlot_iff j s.sp).not.mpr hj
    simp [State.getSlot_setSlot, hne]
  case sp => simp
  case frame =>
    have h := ((s.onlyChanges_setSlot (stackSlot s.sp) s.pc).trans (State.onlyChanges_setSp _ (s.sp + 1))).trans
      (State.onlyChanges_setPc _ (absolute addr))
    exact h.mono (by simp)

/-- Settles O11: SP is counted down first, so the slot that PC is taken from is the one the new SP names. -/
theorem returnPopsThePc : Obligations.ReturnPopsThePc := by
  unfold Obligations.ReturnPopsThePc
  intro s
  refine ⟨_, exec_ret s, ?sp, fun j hj => ?popped, ?frame⟩
  case sp =>
    simp only [State.setPc_sp, State.setSp_sp]
    bv_omega
  case popped =>
    rw [(eq_stackSlot_iff j _).mpr hj]
    simp
  case frame =>
    have h := (s.onlyChanges_setSp (s.sp - 1)).trans (State.onlyChanges_setPc _ (s.getSlot (stackSlot (s.sp - 1))))
    exact h.mono (by simp)

/-- Settles O14: both instructions are one conditional skip, on the comparison and on its negation. -/
theorem immediateSkips : Obligations.ImmediateSkips := by
  unfold Obligations.ImmediateSkips
  intro s x kk
  constructor
  · exact ⟨_, exec_seImm s x kk, by simp, s.onlyChanges_skipIf _⟩
  · exact ⟨_, exec_sneImm s x kk, by simp, s.onlyChanges_skipIf _⟩

end Sys2Proof.Machine
end

section
/-! The instructions of one write to Vx: the loads, the addition of an immediate and the random byte (41_alu.md R120, R121,
R123, R141). Each is `setV` with its own value, so they share the two frames of a register write. -/

namespace Sys2Proof.Machine

theorem State.onlyRegs_setV (s : State) (x : Reg) (b : Byte) : OnlyRegs [x] s (s.setV x b) := by
  intro z hz
  have hne : z ≠ x := by simpa using hz
  rw [State.getV_setV, if_neg hne]

theorem State.onlyChanges_setV (s : State) (x : Reg) (b : Byte) : OnlyChanges [.regs] s (s.setV x b) := by
  intro p hp
  cases p with
  | regs => simp at hp
  | _ => simp [Part.Same]

theorem sum8_toNat (a b : Byte) : (sum8 a b).toNat = (a.toNat + b.toNat) % 256 := BitVec.toNat_ofNat ..

/-- What a mask has let through has no bit outside the mask. -/
theorem and_mask_and_not_mask (r kk : Byte) : r &&& kk &&& ~~~kk = 0 := by
  rw [BitVec.and_assoc, BitVec.and_not_self]
  exact BitVec.and_zero

/-- Settles O18: each load is one write of Vx, the register's value being read before it. -/
theorem loadsWriteVx : Obligations.LoadsWriteVx := by
  unfold Obligations.LoadsWriteVx
  intro s x y kk
  constructor
  · exact ⟨_, exec_ldImm s x kk, s.getV_setV_same x _, s.onlyRegs_setV x _, s.onlyChanges_setV x _⟩
  · exact ⟨_, exec_ldReg s x y, s.getV_setV_same x _, s.onlyRegs_setV x _, s.onlyChanges_setV x _⟩

/-- Settles O19: the sum is the only write, so VF has no flag from it. -/
theorem addImmediateWrapsWithoutFlag : Obligations.AddImmediateWrapsWithoutFlag := by
  unfold Obligations.AddImmediateWrapsWithoutFlag
  intro s x kk
  refine ⟨_, exec_addImm s x kk, ?sum, s.onlyRegs_setV x _, s.onlyChanges_setV x _⟩
  case sum => rw [State.getV_setV_same, sum8_toNat]

/-- Settles O24: Vx becomes the conjunction of the random byte and the mask, which is read bit by bit. -/
theorem randomIsMasked : Obligations.RandomIsMasked := by
  unfold Obligations.RandomIsMasked
  intro s x kk
  refine ⟨_, exec_rnd s x kk, fun k _ => ?bits, ?outside, s.onlyRegs_setV x _, s.onlyChanges_setV x _⟩
  case bits => rw [State.getV_setV_same, BitVec.getLsbD_and]
  case outside => rw [State.getV_setV_same, and_mask_and_not_mask]

end Sys2Proof.Machine
end

section
/-! The instructions that point I at an address: the immediate and the glyph (42_index_memory.md R150, R152). Each is one
`setI` with its own value; what is left is that the value is not cut to 16 bits. -/

namespace Sys2Proof.Machine

theorem State.onlyChanges_setI (s : State) (a : Word16) : OnlyChanges [.index] s (s.setI a) := by
  intro p hp
  cases p with
  | index => simp at hp
  | _ => simp [Part.Same]

theorem lowNibble_val (b : Byte) : (lowNibble b).val = b.toNat % 16 := Fin.val_ofNat ..

/-- An allowed font lies in the reserved region below 0x200 (R7). -/
theorem fontEnd_le_of_wf {c : Config} (h : c.wf = true) : c.fontBase + 80 ≤ 0x200 := by
  obtain ⟨hfits, _⟩ := Bool.and_eq_true_iff.mp h
  exact of_decide_eq_true hfits

/-- The address of a glyph in an allowed configuration is the exact sum: the font ends below 0x200, so it does not wrap. -/
theorem glyphAddr_toNat {c : Config} (h : c.wf = true) (b : Byte) :
    (glyphAddr c b).toNat = c.fontBase + b.toNat % 16 * 5 := by
  have hfont := fontEnd_le_of_wf h
  rw [glyphAddr, lowNibble_val, BitVec.toNat_ofNat]
  exact Nat.mod_eq_of_lt (by omega)

/-- Settles O26: the load is one write of I, and the address field is extended by zeros. -/
theorem loadIndexSetsI : Obligations.LoadIndexSetsI := by
  unfold Obligations.LoadIndexSetsI
  intro s addr
  exact ⟨_, exec_ldI s addr, absolute_toNat addr, s.onlyChanges_setI _⟩

/-- Settles O27: the instruction is one write of I with the glyph's address, which an allowed configuration keeps exact. -/
theorem fontPointsAtTheGlyph : Obligations.FontPointsAtTheGlyph := by
  unfold Obligations.FontPointsAtTheGlyph
  intro s x hwf
  exact ⟨_, exec_ldFont s x, glyphAddr_toNat hwf _, s.onlyChanges_setI _⟩

end Sys2Proof.Machine
end

section
/-! The skips on a key (44_timers_input.md R190, R191, R193). Both test the bit of KEYS_CUR that the low nibble of Vx names. -/

namespace Sys2Proof.Machine

/-- The key of Vx is its low nibble; bits 7..4 are ignored (R193). -/
theorem keyDown_lowNibble (m : KeyMask) (b : Byte) : keyDown m (lowNibble b).val = m.getLsbD (b.toNat % 16) := by
  rw [keyDown, lowNibble_val]

/-- A skip on the negation of a condition skips exactly when the condition fails. -/
theorem State.skipIf_not_pc (s : State) (cond : Bool) :
    (s.skipIf (!cond)).pc = if cond = true then s.pc else s.pc + 2 := by
  cases cond <;> rfl

/-- Settles O16: both instructions are one conditional skip, on the key's bit and on its negation. -/
theorem keySkips : Obligations.KeySkips := by
  unfold Obligations.KeySkips
  intro s x
  rw [← keyDown_lowNibble]
  constructor
  · exact ⟨_, exec_skp s x, by simp, s.onlyChanges_skipIf _⟩
  · exact ⟨_, exec_sknp s x, s.skipIf_not_pc _, s.onlyChanges_skipIf _⟩

end Sys2Proof.Machine
end

section
/-! The stop signal (60_exceptions.md R238). The stop leaves a machine that is not running and whose run has ended; the next
move of such a machine is the state itself, so every later move is too. -/

namespace Sys2Proof.Machine

/-- A run goes on from the state of its first move, in any machine. -/
theorem core_run_succ {M : Host.Core} {s t : M.State} (h : M.step s = .next t) (k : Nat) :
    M.run (k + 1) s = M.run k t := by
  rw [Host.Core.run, h]

/-- A state that is its own next move is the end of every run from it. -/
theorem core_run_of_step_self {M : Host.Core} {s : M.State} (h : M.step s = .next s) (k : Nat) : M.run k s = .next s := by
  induction k with
  | zero => rfl
  | succ k ih => rw [core_run_succ h, ih]

variable {s : State}

theorem step_stop (hrun : s.running = true) (hev : s.nextEvent = .stop) : step s = .next s.takeEvent.stopRun := by
  rw [step_running hrun, hev, fireEvent_stop (by simpa using hrun)]

/-- The event is taken off the list, the run flag cleared and the end marked; nothing else changes (R238). -/
theorem State.onlyChanges_takeEvent_stopRun (s : State) :
    OnlyChanges [.running, .ended, .inputs, .eventCount] s s.takeEvent.stopRun := by
  intro p hp
  cases p with
  | running | ended | inputs | eventCount => simp at hp
  | _ => simp [Part.Same]

/-- After the stop no event occurs (R238). -/
theorem step_stopRun (s : State) : step s.stopRun = .next s.stopRun :=
  step_ended s.stopRun_running s.stopRun_ended

/-- Settles O55: the stop's move clears the run flag and marks the end, and the state it leaves is its own next move. -/
theorem stopEndsTheRun : Obligations.StopEndsTheRun := by
  unfold Obligations.StopEndsTheRun
  intro s hrun hev
  exact ⟨_, step_stop hrun hev, s.takeEvent.stopRun_running, s.onlyChanges_takeEvent_stopRun,
    core_run_of_step_self (M := Sys2Proof.core) (step_stopRun s.takeEvent)⟩

end Sys2Proof.Machine
end

section
/-! Decoding and encoding are inverse to each other (30_encoding.md sections 2 to 4). Forwards, one equation per format: the
decoder reads from a word of a format the fields that the format laid down. Backwards, a word is the layout of its own
fields, and the dispatch of each class keeps the fields it does not turn into the choice of an instruction. -/

namespace Sys2Proof

/-! ## Decode after encode -/

/-- The decoder's dispatch on the class reads back the fields of each format (R72 to R74). -/
theorem decodeWord_encode (i : Instr) : decodeWord (encode i) = .ok i := by
  cases i with
  | cls | ret => rfl
  | jp | call | ldI | jpV0 => simp [encode, decodeWord, classOf_formatA, addrOf_formatA]
  | seImm | sneImm | ldImm | addImm | rnd =>
    simp [encode, decodeWord, classOf_formatXKK, xOf_formatXKK, kkOf_formatXKK]
  | seReg | sneReg | drw =>
    simp [encode, decodeWord, classOf_formatXYN, xOf_formatXYN, yOf_formatXYN, nOf_formatXYN]
  | ldReg | orReg | andReg | xorReg | addReg | sub | shr | subn | shl =>
    simp [encode, decodeWord, decodeClass8, classOf_formatXYN, xOf_formatXYN, yOf_formatXYN, nOf_formatXYN]
  | skp | sknp =>
    simp [encode, decodeWord, decodeClassE, formatX, classOf_formatXKK, xOf_formatXKK, kkOf_formatXKK]
  | ldFromDt | ldKey | ldDt | ldSt | addI | ldFont | ldBcd | saveRegs | loadRegs =>
    simp [encode, decodeWord, decodeClassF, formatX, classOf_formatXKK, xOf_formatXKK, kkOf_formatXKK]

/-- A word is its high byte followed by its low byte (R56). -/
theorem wordOfBytes_extract (w : Word16) : wordOfBytes (w.extractLsb' 8 8) (w.extractLsb' 0 8) = w :=
  BitVec.extractLsb'_append_extractLsb'_eq_extractLsb' (by decide) |>.trans BitVec.extractLsb'_eq_self

/-- Settles O1: the word decodes format by format, and its two bytes are the word again. -/
theorem decodeInvertsEncode : Obligations.DecodeInvertsEncode := by
  unfold Obligations.DecodeInvertsEncode
  intro i rest
  refine ⟨decodeWord_encode i, ?_⟩
  rw [decodeBytes, wordOfBytes_extract, decodeWord_encode, Except.map]

/-! ## Encode after decode -/

variable {w : Word16} {i : Instr}

/-- A word is the A layout with its class and its address field. -/
theorem formatA_eq_of_classOf {c : BitVec 4} (hc : classOf w = c) : formatA c (addrOf w) = w := by
  rw [← hc, formatA_fields]

theorem formatXKK_eq_of_classOf {c : BitVec 4} (hc : classOf w = c) : formatXKK c (xOf w) (kkOf w) = w := by
  rw [← hc, formatXKK_fields]

theorem formatX_eq_of_fields {c : BitVec 4} {f : Byte} (hc : classOf w = c) (hf : kkOf w = f) :
    formatX c (xOf w) f = w := by
  rw [← hf, formatX, formatXKK_eq_of_classOf hc]

theorem formatXYN_eq_of_fields {c n : BitVec 4} (hc : classOf w = c) (hn : nOf w = n) :
    formatXYN c (xOf w) (yOf w) n = w := by
  rw [← hc, ← hn, formatXYN_fields]

theorem encode_of_decodeClass8 (hc : classOf w = 0x8) (h : decodeClass8 w = .ok i) : encode i = w := by
  unfold decodeClass8 at h
  split at h <;> cases h
  all_goals exact formatXYN_eq_of_fields hc ‹_›

theorem encode_of_decodeClassE (hc : classOf w = 0xE) (h : decodeClassE w = .ok i) : encode i = w := by
  unfold decodeClassE at h
  split at h <;> cases h
  all_goals exact formatX_eq_of_fields hc ‹_›

theorem encode_of_decodeClassF (hc : classOf w = 0xF) (h : decodeClassF w = .ok i) : encode i = w := by
  unfold decodeClassF at h
  split at h <;> cases h
  all_goals exact formatX_eq_of_fields hc ‹_›

/-- Settles O2: the dispatch, class by class; each class keeps every field that its format has. -/
theorem encodeInvertsDecode : Obligations.EncodeInvertsDecode := by
  unfold Obligations.EncodeInvertsDecode
  intro w i h
  unfold decodeWord at h
  split at h
  case h_1 hc =>
    split at h
    next hw => cases h; exact hw.symm
    next =>
      split at h <;> cases h
      next hw => exact hw.symm
  case h_6 hc | h_10 hc =>
    split at h <;> cases h
    next hn => exact formatXYN_eq_of_fields hc hn
  case h_9 hc => exact encode_of_decodeClass8 hc h
  case h_15 hc => exact encode_of_decodeClassE hc h
  case h_16 =>
    -- none of the fifteen classes before it, so class F
    simp only [imp_false] at *
    exact encode_of_decodeClassF (by bv_omega) h
  case h_2 hc | h_3 hc | h_11 hc | h_12 hc => cases h; exact formatA_eq_of_classOf hc
  case h_4 hc | h_5 hc | h_7 hc | h_8 hc | h_13 hc => cases h; exact formatXKK_eq_of_classOf hc
  case h_14 hc => cases h; exact formatXYN_eq_of_fields hc rfl

/-! ## The words that are no instruction -/

theorem classOf_toNat (w : Word16) : (classOf w).toNat = w.toNat / 4096 := by
  rw [classOf, BitVec.extractLsb'_toNat, Nat.shiftRight_eq_div_pow]
  omega

theorem nOf_toNat (w : Word16) : (nOf w).toNat = w.toNat % 16 := by
  rw [nOf, BitVec.extractLsb'_toNat, Nat.shiftRight_zero]

theorem kkOf_toNat (w : Word16) : (kkOf w).toNat = w.toNat % 256 := by
  rw [kkOf, BitVec.extractLsb'_toNat, Nat.shiftRight_zero]

theorem decodeClass8_error_iff :
    (∃ e, decodeClass8 w = .error e) ↔ w.toNat % 16 ∈ [0x8, 0x9, 0xA, 0xB, 0xC, 0xD, 0xF] := by
  rw [← nOf_toNat]
  unfold decodeClass8
  split
  case h_10 => simp [imp_false] at *; bv_omega
  all_goals simp [*]

theorem decodeClassE_error_iff : (∃ e, decodeClassE w = .error e) ↔ w.toNat % 256 ∉ [0x9E, 0xA1] := by
  rw [← kkOf_toNat]
  unfold decodeClassE
  split
  case h_3 => simp [imp_false] at *; bv_omega
  all_goals simp [*]

theorem decodeClassF_error_iff : (∃ e, decodeClassF w = .error e) ↔
    w.toNat % 256 ∉ [0x07, 0x0A, 0x15, 0x18, 0x1E, 0x29, 0x33, 0x55, 0x65] := by
  rw [← kkOf_toNat]
  unfold decodeClassF
  split
  case h_10 => simp [imp_false] at *; bv_omega
  all_goals simp [*]

/-- A guarded instruction is rejected exactly when the guard fails. -/
theorem exists_ite_ok_eq_error_iff {p : Prop} [Decidable p] {r : Unrecognised} :
    (∃ e, (if p then .ok i else .error r : Except Unrecognised Instr) = .error e) ↔ ¬p := by
  by_cases hp : p <;> simp [hp]

/-- A class-0 word is matched whole (D14). -/
theorem exists_class0_eq_error_iff :
    (∃ e, (if w = 0x00E0#16 then .ok .cls else if w = 0x00EE#16 then .ok .ret else .error .class0 :
      Except Unrecognised Instr) = .error e) ↔ w.toNat ≠ 0x00E0 ∧ w.toNat ≠ 0x00EE := by
  by_cases hcls : w = 0x00E0#16
  · simp [hcls]
  · rw [if_neg hcls, exists_ite_ok_eq_error_iff]
    bv_omega

/-- Settles O4: each class of the dispatch rejects its own space, and the other ten classes reject no word. -/
theorem unrecognisedWordsAreTheSixSpaces : Obligations.UnrecognisedWordsAreTheSixSpaces := by
  unfold Obligations.UnrecognisedWordsAreTheSixSpaces
  intro w
  rw [← decodeClass8_error_iff, ← decodeClassE_error_iff, ← decodeClassF_error_iff, ← classOf_toNat, ← nOf_toNat]
  unfold decodeWord
  split
  case h_1 hc => simp [hc, exists_class0_eq_error_iff]
  case h_6 hc | h_10 hc => simp [hc, exists_ite_ok_eq_error_iff, BitVec.toNat_eq]
  case h_9 hc | h_15 hc => simp [hc]
  case h_16 =>
    simp only [imp_false] at *
    have hc : classOf w = 0xF := by bv_omega
    simp [hc]
  case h_2 hc | h_3 hc | h_4 hc | h_5 hc | h_7 hc | h_8 hc | h_11 hc | h_12 hc | h_13 hc | h_14 hc => simp [hc]

/-- Settles O3: the eight words are closed terms, and the decoder computes. -/
theorem writtenOutWordsDecode : Obligations.WrittenOutWordsDecode := by
  unfold Obligations.WrittenOutWordsDecode
  exact ⟨rfl, rfl, rfl, rfl, rfl, rfl, rfl, rfl⟩

end Sys2Proof
end

section
/-! What each instruction may write, said once (10_state.md sections 1 to 8). Every instruction answers, and what it answers
differs from its state in the parts of `Instr.parts` alone; the statements on who writes what are read off that table. -/

namespace Sys2Proof.Machine

/-! ## Frames of the remaining updates -/

theorem State.onlyChanges_writeByte (s : State) (a : Nat) (b : Byte) : OnlyChanges [.memory] s (s.writeByte a b) := by
  intro p hp
  cases p with
  | memory => simp at hp
  | _ => simp [Part.Same]

theorem State.onlyChanges_setDt (s : State) (b : Byte) : OnlyChanges [.delay] s (s.setDt b) := by
  intro p hp
  cases p with
  | delay => simp at hp
  | _ => simp [Part.Same]

theorem State.onlyChanges_setSt (s : State) (b : Byte) : OnlyChanges [.sound] s (s.setSt b) := by
  intro p hp
  cases p with
  | sound => simp at hp
  | _ => simp [Part.Same]

theorem State.onlyChanges_emit (s : State) (o : Output) : OnlyChanges [.outputs] s (s.emit o) := by
  intro p hp
  cases p with
  | outputs => simp at hp
  | _ => simp [Part.Same]

theorem State.onlyChanges_setLogicResult (s : State) (x : Reg) (r : Byte) :
    OnlyChanges [.regs] s (s.setLogicResult x r) := by
  intro p hp
  cases p with
  | regs => simp at hp
  | _ => simp [Part.Same]

theorem State.onlyChanges_setResultAndFlag (s : State) (x : Reg) (r f : Byte) :
    OnlyChanges [.regs] s (s.setResultAndFlag x r f) :=
  ((s.onlyChanges_setV x r).trans (State.onlyChanges_setV _ VF f)).mono (by simp)

theorem State.onlyChanges_storeRegs (s : State) (n : Nat) : OnlyChanges [.memory] s (s.storeRegs n) := by
  intro p hp
  cases p with
  | memory => simp at hp
  | regs => simp [Part.Same, State.getV]
  | _ => simp [Part.Same]

theorem State.onlyChanges_loadRegs (s : State) (n : Nat) : OnlyChanges [.regs] s (s.loadRegs n) := by
  intro p hp
  cases p with
  | regs => simp at hp
  | _ => simp [Part.Same]

theorem State.onlyChanges_signalDisplayChanged (s : State) : OnlyChanges [.outputs] s s.signalDisplayChanged :=
  s.onlyChanges_emit _

end Sys2Proof.Machine

namespace Sys2Proof

open Machine in
/-- The parts of the state that an instruction may write. -/
def Instr.parts : Instr → List Part
  | .cls => [.display, .outputs]
  | .ret => [.sp, .pc]
  | .call _ => [.stack, .sp, .pc]
  | .jp _ | .jpV0 _ | .seImm _ _ | .sneImm _ _ | .seReg _ _ | .sneReg _ _ | .skp _ | .sknp _ => [.pc]
  | .ldImm _ _ | .addImm _ _ | .ldReg _ _ | .rnd _ _ | .ldFromDt _ | .loadRegs _ => [.regs]
  | .orReg _ _ | .andReg _ _ | .xorReg _ _ => [.regs]
  | .addReg _ _ | .sub _ _ | .shr _ _ | .subn _ _ | .shl _ _ => [.regs]
  | .ldI _ | .addI _ | .ldFont _ => [.index]
  | .drw _ _ _ => [.display, .regs, .outputs]
  | .ldKey _ => [.regs, .pc]
  | .ldDt _ => [.delay]
  | .ldSt _ => [.sound]
  | .ldBcd _ | .saveRegs _ => [.memory]

end Sys2Proof

namespace Sys2Proof.Machine

variable {i : Instr} {s t u : State}

/-- FX0A writes Vx or takes 2 from PC. -/
theorem exec_ldKey_onlyChanges (s : State) (x : Reg) :
    ∃ t, exec (.ldKey x) s = .next t ∧ OnlyChanges [.regs, .pc] s t := by
  cases h : releasedKey s.keysLast s.keysCur with
  | none => exact ⟨_, exec_ldKey_waiting s x h, (s.onlyChanges_setPc _).mono (by simp)⟩
  | some k => exact ⟨_, exec_ldKey_released s x k h, (s.onlyChanges_setV x _).mono (by simp)⟩

/-- FX0A found a key and stored it, or found none and waits. -/
theorem exec_ldKey_cases {x : Reg} (h : exec (.ldKey x) s = .next t) :
    (releasedKey s.keysLast s.keysCur = none ∧ t = s.setPc (s.pc - 2)) ∨
    ∃ k, releasedKey s.keysLast s.keysCur = some k ∧ t = s.setV x (BitVec.ofNat 8 k) := by
  cases hk : releasedKey s.keysLast s.keysCur with
  | none => exact .inl ⟨rfl, Host.Outcome.next.inj (h.symm.trans (exec_ldKey_waiting s x hk))⟩
  | some k => exact .inr ⟨k, rfl, Host.Outcome.next.inj (h.symm.trans (exec_ldKey_released s x k hk))⟩

/-- Every instruction answers a next state, and writes its own parts alone. -/
theorem exec_answers (i : Instr) (s : State) : ∃ t, exec i s = .next t ∧ OnlyChanges i.parts s t := by
  cases i with
  | cls => exact ⟨_, exec_cls s, (s.onlyChanges_setDisp _).trans (State.onlyChanges_signalDisplayChanged _)⟩
  | ret => exact ⟨_, exec_ret s, (s.onlyChanges_setSp _).trans (State.onlyChanges_setPc _ _)⟩
  | call addr =>
    exact ⟨_, exec_call s addr,
      ((s.onlyChanges_setSlot _ _).trans (State.onlyChanges_setSp _ _)).trans (State.onlyChanges_setPc _ _)⟩
  | drw x y n =>
    exact ⟨_, exec_drw s x y n, ((s.onlyChanges_setDisp _).trans (State.onlyChanges_setV _ VF _)).trans
      (State.onlyChanges_signalDisplayChanged _)⟩
  | jp | jpV0 => exact ⟨_, rfl, s.onlyChanges_setPc _⟩
  | seImm | sneImm | seReg | sneReg | skp | sknp => exact ⟨_, rfl, s.onlyChanges_skipIf _⟩
  | ldImm | addImm | ldReg | rnd | ldFromDt => exact ⟨_, rfl, s.onlyChanges_setV _ _⟩
  | orReg | andReg | xorReg => exact ⟨_, rfl, s.onlyChanges_setLogicResult _ _⟩
  | addReg | sub | shr | subn | shl => exact ⟨_, rfl, s.onlyChanges_setResultAndFlag _ _ _⟩
  | ldI | addI | ldFont => exact ⟨_, rfl, s.onlyChanges_setI _⟩
  | ldKey x => exact exec_ldKey_onlyChanges s x
  | ldDt x => exact ⟨_, exec_ldDt s x, s.onlyChanges_setDt _⟩
  | ldSt x => exact ⟨_, exec_ldSt s x, s.onlyChanges_setSt _⟩
  | ldBcd x =>
    refine ⟨_, exec_ldBcd s x, OnlyChanges.mono (by simp [Instr.parts]) (((s.onlyChanges_writeByte _ _).trans
      (State.onlyChanges_writeByte _ _ _)).trans (State.onlyChanges_writeByte _ _ _))⟩
  | saveRegs x => exact ⟨_, exec_saveRegs s x, s.onlyChanges_storeRegs _⟩
  | loadRegs x => exact ⟨_, exec_loadRegs s x, s.onlyChanges_loadRegs _⟩

/-- An instruction writes its own parts alone. -/
theorem exec_onlyChanges (h : exec i s = .next t) : OnlyChanges i.parts s t := by
  obtain ⟨u, hu, hframe⟩ := exec_answers i s
  obtain rfl := Host.Outcome.next.inj (hu.symm.trans h)
  exact hframe

/-- A part that the instruction does not write is the same afterwards. -/
theorem exec_same (h : exec i s = .next t) {p : Part} (hp : p ∉ i.parts) : p.Same s t := exec_onlyChanges h p hp

/-- What belongs to the outside stands in no instruction's table (10_state.md sections 7 and 8). -/
theorem exec_onlyChanges_core (h : exec i s = .next t) :
    OnlyChanges [.regs, .index, .pc, .sp, .stack, .delay, .sound, .display, .memory, .outputs] s t := by
  refine (exec_onlyChanges h).mono ?_
  cases i <;> simp [Instr.parts]

/-- Settles O50: the frame that all instructions share. -/
theorem noInstructionTouchesTheOutside : Obligations.NoInstructionTouchesTheOutside := by
  unfold Obligations.NoInstructionTouchesTheOutside
  intro i s t h
  exact exec_onlyChanges_core h

/-! ## The writers of each part -/

theorem index_mem_parts (h : .index ∈ i.parts) : (∃ addr, i = .ldI addr) ∨ ∃ x, i = .addI x ∨ i = .ldFont x := by
  cases i <;> simp_all [Instr.parts]

theorem delay_mem_parts (h : .delay ∈ i.parts) : ∃ x, i = .ldDt x := by
  cases i <;> simp_all [Instr.parts]

theorem sound_mem_parts (h : .sound ∈ i.parts) : ∃ x, i = .ldSt x := by
  cases i <;> simp_all [Instr.parts]

theorem memory_mem_parts (h : .memory ∈ i.parts) : ∃ x, i = .ldBcd x ∨ i = .saveRegs x := by
  cases i <;> simp_all [Instr.parts]

theorem stack_mem_parts (h : .stack ∈ i.parts) : ∃ addr, i = .call addr := by
  cases i <;> simp_all [Instr.parts]

theorem sp_mem_parts (h : .sp ∈ i.parts) : i = .ret ∨ ∃ addr, i = .call addr := by
  cases i <;> simp_all [Instr.parts]

/-- Memory, the list itself, is the same after an instruction that does not write it. -/
theorem exec_mem (h : exec i s = .next t) (hmem : .memory ∉ i.parts) : t.mem = s.mem := by
  cases i with
  | ldBcd | saveRegs => simp [Instr.parts] at hmem
  | ldKey x =>
    obtain ⟨-, rfl⟩ | ⟨k, -, rfl⟩ := exec_ldKey_cases h
    · rfl
    · rfl
  | seImm | sneImm | seReg | sneReg | skp | sknp | orReg | andReg | xorReg | loadRegs =>
    obtain rfl := Host.Outcome.next.inj h
    simp
  | _ =>
    obtain rfl := Host.Outcome.next.inj h
    rfl

theorem stack_eq_of_same (h : Part.stack.Same s t) : t.stack = s.stack :=
  Vector.ext fun j hj => h ⟨j, hj⟩

/-- Settles O49: a part that the instruction does not write is the same, and each part has its own writers. -/
theorem eachPartHasItsWriters : Obligations.EachPartHasItsWriters := by
  unfold Obligations.EachPartHasItsWriters
  intro i s t h
  have same_or (p : Part) : p.Same s t ∨ p ∈ i.parts := or_iff_not_imp_right.mpr (exec_same h)
  refine ⟨(same_or .index).imp_right index_mem_parts, (same_or .delay).imp_right delay_mem_parts,
    (same_or .sound).imp_right sound_mem_parts, ?memory, (same_or .stack).imp stack_eq_of_same stack_mem_parts,
    (same_or .sp).imp_right sp_mem_parts⟩
  case memory => exact (or_iff_not_imp_right.mpr (exec_mem h)).imp_right memory_mem_parts

/-- Settles O39: 00E0 and DXYN add one display-changed event, and no other instruction writes the history (R34, R173). -/
theorem displayChangedOncePerClearOrDraw : Obligations.DisplayChangedOncePerClearOrDraw := by
  unfold Obligations.DisplayChangedOncePerClearOrDraw
  intro i s t h
  cases i with
  | cls | drw =>
    obtain rfl := Host.Outcome.next.inj h
    simp [displayChanges]
  | _ =>
    have houtputs : t.outputs = s.outputs := exec_same h (p := .outputs) (by simp [Instr.parts])
    rw [houtputs, Nat.add_zero]

/-! ## The program counter -/

theorem State.skipIf_pc_eq_or (s : State) (cond : Bool) : (s.skipIf cond).pc = s.pc ∨ (s.skipIf cond).pc = s.pc + 2 := by
  cases cond with
  | false => exact .inl rfl
  | true => exact .inr rfl

theorem keyReleased_iff {last cur : KeyMask} {k : Nat} :
    keyReleased last cur k = true ↔ last.getLsbD k = true ∧ cur.getLsbD k = false := by
  simp [keyReleased, keyDown]

/-- FX0A waits when no key that it looks at is released (R194, R195). -/
theorem releasedKey_eq_none_iff {last cur : KeyMask} :
    releasedKey last cur = none ↔ ∀ k < 15, ¬(last.getLsbD k = true ∧ cur.getLsbD k = false) := by
  simp only [releasedKey, List.find?_range_eq_none, Bool.not_eq_true', ← Bool.not_eq_true, keyReleased_iff]

/-- The key that FX0A finds is the lowest released one (R195). -/
theorem releasedKey_eq_some {last cur : KeyMask} {k : Nat} (hk : k < 15) (hdown : last.getLsbD k = true)
    (hup : cur.getLsbD k = false) (hlow : ∀ j < k, ¬(last.getLsbD j = true ∧ cur.getLsbD j = false)) :
    releasedKey last cur = some k := by
  refine List.find?_range_eq_some.mpr ⟨keyReleased_iff.mpr ⟨hdown, hup⟩, List.mem_range.mpr hk, fun j hj => ?_⟩
  rw [Bool.not_eq_true', ← Bool.not_eq_true, keyReleased_iff]
  exact hlow j hj

/-- Settles O17: the instructions that write PC are the skips, the jumps and FX0A, which writes it only while it waits. -/
theorem pcChangesOnlyInTheseWays : Obligations.PcChangesOnlyInTheseWays := by
  unfold Obligations.PcChangesOnlyInTheseWays
  intro i s t h
  cases i with
  | seImm | sneImm | seReg | sneReg | skp | sknp =>
    obtain rfl := Host.Outcome.next.inj h
    exact (s.skipIf_pc_eq_or _).imp_right fun hpc => .inl ⟨hpc, by simp⟩
  | ret | jp | call | jpV0 => exact .inr (.inr (.inl (by simp)))
  | ldKey x =>
    obtain ⟨hk, rfl⟩ | ⟨k, hk, rfl⟩ := exec_ldKey_cases h
    · exact .inr (.inr (.inr ⟨rfl, ⟨x, rfl⟩, releasedKey_eq_none_iff.mp hk⟩))
    · exact .inl rfl
  | _ => exact .inl (exec_same h (p := .pc) (by simp [Instr.parts]))

/-! ## The registers -/

theorem mem_regsUpTo {x z : Reg} : z ∈ regsUpTo x ↔ z ≤ x := by simp [regsUpTo]

theorem State.onlyRegs_setResultAndFlag (s : State) (x : Reg) (r f : Byte) :
    OnlyRegs [x, VF] s (s.setResultAndFlag x r f) := by
  intro z hz
  obtain ⟨hx, hvf⟩ : z ≠ x ∧ z ≠ VF := by simpa using hz
  rw [State.getV_setResultAndFlag, if_neg hvf, if_neg hx]

/-- The quirk decides whether a logic instruction writes VF (R124, R6). -/
theorem State.onlyRegs_setLogicResult (s : State) (x : Reg) (r : Byte) :
    OnlyRegs (if s.config.quirkLogicVfReset then [x, VF] else [x]) s (s.setLogicResult x r) := by
  unfold State.setLogicResult
  cases s.config.quirkLogicVfReset with
  | true => exact s.onlyRegs_setResultAndFlag x r 0
  | false => exact s.onlyRegs_setV x r

theorem State.onlyRegs_loadRegs (s : State) (x : Reg) : OnlyRegs (regsUpTo x) s (s.loadRegs (x.val + 1)) := by
  intro z hz
  have hlt : ¬z.val < x.val + 1 := by simpa [mem_regsUpTo] using hz
  rw [State.getV_loadRegs s _ (by omega), if_neg hlt]

/-- Settles O47: an instruction that does not write the register file leaves every register, and each of the others writes
its own row. -/
theorem registersWrittenAreTheTables : Obligations.RegistersWrittenAreTheTables := by
  unfold Obligations.RegistersWrittenAreTheTables
  intro i s t h
  cases i with
  | ldImm | addImm | ldReg | rnd | ldFromDt =>
    obtain rfl := Host.Outcome.next.inj h
    exact s.onlyRegs_setV _ _
  | orReg | andReg | xorReg =>
    obtain rfl := Host.Outcome.next.inj h
    exact s.onlyRegs_setLogicResult _ _
  | addReg | sub | shr | subn | shl =>
    obtain rfl := Host.Outcome.next.inj h
    exact s.onlyRegs_setResultAndFlag _ _ _
  | drw =>
    obtain rfl := Host.Outcome.next.inj h
    exact State.onlyRegs_setV (s.setDisp _) VF _
  | ldKey x =>
    obtain ⟨-, rfl⟩ | ⟨k, -, rfl⟩ := exec_ldKey_cases h
    · exact fun z _ => rfl
    · exact s.onlyRegs_setV x _
  | loadRegs x =>
    obtain rfl := Host.Outcome.next.inj h
    exact s.onlyRegs_loadRegs x
  | _ => exact fun z _ => exec_same h (p := .regs) (by simp [Instr.parts]) z

end Sys2Proof.Machine
end

section
/-! What every move keeps: no move stops the machine, and every move keeps the invariant (60_exceptions.md R220, 20_memory.md
section 1). Both go along the kinds of move: an instruction, the no-op, a tick, the stop, `run()`, rest. -/

namespace Sys2Proof.Machine

variable {i : Instr} {s t : State}

/-! ## Every move answers -/

theorem instrStep_answers (s : State) (r : Byte) : ∃ t, s.instrStep r = .next t := by
  cases hd : decodeWord s.fetchWord with
  | ok i =>
    obtain ⟨t, ht, -⟩ := exec_answers i (s.setRand r).advancePc
    exact ⟨t, (instrStep_of_decode hd r).trans ht⟩
  | error e => exact ⟨_, instrStep_of_reject hd r⟩

theorem fireEvent_answers (e : Event) (s : State) : ∃ t, fireEvent e s = .next t := by
  cases hrun : s.running with
  | false => exact ⟨s, fireEvent_stopped hrun e⟩
  | true =>
    cases e with
    | step r =>
      obtain ⟨t, ht⟩ := instrStep_answers s r
      exact ⟨t, (fireEvent_step hrun r).trans ht⟩
    | tick m => exact ⟨_, fireEvent_tick hrun m⟩
    | stop => exact ⟨_, fireEvent_stop hrun⟩

theorem step_answers (s : State) : s.Goes := by
  cases hrun : s.running with
  | true =>
    obtain ⟨t, ht⟩ := fireEvent_answers s.nextEvent s.takeEvent
    exact ⟨t, (step_running hrun).trans ht⟩
  | false =>
    cases hended : s.ended with
    | true => exact ⟨s, step_ended hrun hended⟩
    | false => exact ⟨_, step_boot hrun hended⟩

/-- Settles O8: every instruction answers, so every event and every move does. -/
theorem nothingFaults : Obligations.NothingFaults := by
  unfold Obligations.NothingFaults
  refine ⟨fun i s => ?_, step_answers⟩
  obtain ⟨t, ht, -⟩ := exec_answers i s
  exact ⟨t, ht⟩

/-! ## The step event on an instruction -/

/-- A step event whose word decodes runs the instruction on the state with the event taken, its byte latched and PC
advanced. -/
theorem step_of_decode {r : Byte} (hrun : s.running = true) (hev : s.nextEvent = .step r)
    (hdec : decodeWord s.fetchWord = .ok i) : step s = exec i ((s.takeEvent.setRand r).setPc (s.pc + 2)) := by
  rw [← s.takeEvent_fetchWord] at hdec
  rw [step_stepEvent hrun hev, instrStep_of_decode hdec]
  simp

/-- Settles O6: the step event prepares the state and hands it to the decoded instruction. -/
theorem stepRunsDecodedInstruction : Obligations.StepRunsDecodedInstruction := by
  unfold Obligations.StepRunsDecodedInstruction
  intro s r i hrun hev hdec
  exact step_of_decode hrun hev hdec

/-! ## The invariant -/

/-- The canonical form of memory survives every instruction; only FX33 and FX55 write memory. -/
theorem exec_wf (h : exec i s = .next t) (hwf : Memory.wf s.config s.mem) : Memory.wf t.config t.mem := by
  by_cases hmem : .memory ∈ i.parts
  · obtain ⟨x, rfl | rfl⟩ := memory_mem_parts hmem
    · obtain rfl := Host.Outcome.next.inj h
      exact State.writeByte_wf _ _ _ (State.writeByte_wf _ _ _ (s.writeByte_wf _ _ hwf))
    · obtain rfl := Host.Outcome.next.inj h
      exact s.storeRegs_wf _ hwf
  · have hconfig : t.config = s.config := exec_onlyChanges_core h .config (by simp)
    rw [hconfig, exec_mem h hmem]
    exact hwf

theorem exec_inv (h : exec i s = .next t) (hinv : s.Inv) : t.Inv := by
  have hframe := exec_onlyChanges_core h
  have hconfig : t.config = s.config := hframe .config (by simp)
  have hrunning : t.running = s.running := hframe .running (by simp)
  have hended : t.ended = s.ended := hframe .ended (by simp)
  obtain ⟨hmem, hwf, hrun⟩ := hinv
  exact ⟨exec_wf h hmem, hconfig ▸ hwf, by rwa [hrunning, hended]⟩

/-- What a step event prepares is as good as the state before it. -/
theorem State.Inv.prepared (hinv : s.Inv) (r : Byte) : (s.setRand r).advancePc.Inv := ⟨hinv.memory, hinv.config, hinv.run⟩

theorem State.Inv.fireEvent {e : Event} (hinv : s.Inv) (h : fireEvent e s = .next t) : t.Inv := by
  obtain ⟨-, rfl⟩ | ⟨-, r, -, hstep⟩ | ⟨-, m, -, rfl⟩ | ⟨-, -, rfl⟩ := fireEvent_cases h
  · exact hinv
  · obtain ⟨i, -, hexec⟩ | ⟨e, -, rfl⟩ := instrStep_cases hstep
    · exact exec_inv hexec (hinv.prepared r)
    · exact hinv.prepared r
  · exact ⟨hinv.memory, hinv.config, hinv.run⟩
  · exact ⟨hinv.memory, hinv.config, fun _ => rfl⟩

/-- Settles O57: of the moves, only an instruction touches memory, only the stop marks the end, and it clears the run flag;
`run()` is a move of a machine whose run has not ended. -/
theorem invariantKeptByEveryMove : Obligations.InvariantKeptByEveryMove := by
  unfold Obligations.InvariantKeptByEveryMove
  intro s t hinv h
  obtain ⟨-, hfire⟩ | ⟨-, -, rfl⟩ | ⟨-, hended, rfl⟩ := step_cases h
  · have htaken : s.takeEvent.Inv := ⟨hinv.memory, hinv.config, hinv.run⟩
    exact htaken.fireEvent hfire
  · exact hinv
  · exact ⟨hinv.memory, hinv.config, fun hend => absurd (hend.symm.trans hended) (by decide)⟩

/-- Settles O56: reset lists no byte, has the default configuration and has not ended. -/
theorem invariantHoldsAtReset : Obligations.InvariantHoldsAtReset := by
  unfold Obligations.InvariantHoldsAtReset
  exact ⟨Memory.nil_wf _, by decide, by decide⟩

end Sys2Proof.Machine
end

section
/-! What each instruction reads, said once (10_state.md section 1, 60_exceptions.md section 1). Two states that agree on what
an instruction reads are moved alike by it: what differed before may differ after, and nothing else does. One rule for each
update, put together along the constructors, gives it for `exec`; the statements on who sees what choose the parts that
differ. -/

namespace Sys2Proof

open Machine in
/-- The parts of the state, besides the registers of `Instr.reads`, that the meaning of an instruction depends on. -/
def Instr.looksAt : Instr → List Part
  | .ret => [.sp, .stack]
  | .call _ => [.pc, .sp]
  | .seImm _ _ | .sneImm _ _ | .seReg _ _ | .sneReg _ _ => [.pc]
  | .skp _ | .sknp _ => [.pc, .keysCur]
  | .orReg _ _ | .andReg _ _ | .xorReg _ _ | .ldFont _ => [.config]
  | .rnd _ _ => [.rand]
  | .drw _ _ _ => [.index, .memory, .display]
  | .ldFromDt _ => [.delay]
  | .ldKey _ => [.pc, .keysCur, .keysLast]
  | .addI _ | .ldBcd _ | .saveRegs _ => [.index]
  | .loadRegs _ => [.index, .memory]
  | .cls | .jp _ | .jpV0 _ | .ldImm _ _ | .addImm _ _ | .ldReg _ _ | .ldI _ | .ldDt _ | .ldSt _ => []
  | .addReg _ _ | .sub _ _ | .shr _ _ | .subn _ _ | .shl _ _ => []

end Sys2Proof

namespace Sys2Proof.Machine

/-- From `s` and `s'` two runs have come to `t` and `u`, which differ in the listed parts alone; each register holds the same
in both, or in each run what it held at the start. -/
structure MovesAlike (parts : List Part) (s s' t u : State) : Prop where
  frame : OnlyChanges parts t u
  regs : ∀ z, u.getV z = t.getV z ∨ (t.getV z = s.getV z ∧ u.getV z = s'.getV z)

/-- The parts that an output event delivers (R234, R247). -/
def deliveredParts : List Part := [.regs, .index, .pc, .sp, .stack, .delay, .sound, .display]

/-- The history may differ, or what an output event delivers does not. -/
def HistoryMayDiffer (parts : List Part) : Prop := .outputs ∈ parts ∨ ∀ p ∈ deliveredParts, p ∉ parts

theorem Display.ext_cell {d e : Display} (h : ∀ x y, d.cell x y = e.cell x y) : d = e := by
  refine Vector.ext fun y hy => Vector.ext fun x hx => ?_
  rw [← Display.cell_inside d hx hy, ← Display.cell_inside e hx hy, h]

variable {parts : List Part} {s s' t u : State} {i : Instr}

theorem v_eq_of_same (h : Part.regs.Same s t) : t.v = s.v := Vector.ext fun z hz => h ⟨z, hz⟩

/-- States that differ outside the delivered parts deliver the same. -/
theorem OnlyChanges.delivered_eq (h : OnlyChanges parts t u) (hparts : ∀ p ∈ deliveredParts, p ∉ parts) :
    u.disp = t.disp ∧ u.debugSnapshot = t.debugSnapshot := by
  have same {p : Part} (hp : p ∈ deliveredParts) : p.Same t u := h p (hparts p hp)
  have hv : u.v = t.v := v_eq_of_same (same (by decide))
  have hi : u.i = t.i := same (p := .index) (by decide)
  have hpc : u.pc = t.pc := same (p := .pc) (by decide)
  have hsp : u.sp = t.sp := same (p := .sp) (by decide)
  have hstack : u.stack = t.stack := stack_eq_of_same (same (by decide))
  have hdt : u.dt = t.dt := same (p := .delay) (by decide)
  have hst : u.st = t.st := same (p := .sound) (by decide)
  refine ⟨Display.ext_cell (same (p := .display) (by decide)), ?_⟩
  simp only [State.debugSnapshot, hv, hi, hpc, hsp, hstack, hdt, hst]

/-! ## One rule for each update -/

namespace MovesAlike

theorem start (h : OnlyChanges parts s s') : MovesAlike parts s s' s s' := ⟨h, fun _ => .inr ⟨rfl, rfl⟩⟩

variable (h : MovesAlike parts s s' t u)
include h

theorem setV (x : Reg) (b : Byte) : MovesAlike parts s s' (t.setV x b) (u.setV x b) where
  frame p hp := by
    cases p with
    | regs => exact fun z => by rw [State.getV_setV, State.getV_setV, h.frame .regs hp z]
    | _ => exact h.frame _ hp
  regs z := by
    by_cases hz : z = x
    · left
      rw [hz, State.getV_setV_same, State.getV_setV_same]
    · simpa only [State.getV_setV, if_neg hz] using h.regs z

theorem setI (a : Word16) : MovesAlike parts s s' (t.setI a) (u.setI a) where
  frame p hp := by
    cases p with
    | index => rfl
    | _ => exact h.frame _ hp
  regs := h.regs

theorem setPc (a : Word16) : MovesAlike parts s s' (t.setPc a) (u.setPc a) where
  frame p hp := by
    cases p with
    | pc => rfl
    | _ => exact h.frame _ hp
  regs := h.regs

theorem setSp (n : Byte) : MovesAlike parts s s' (t.setSp n) (u.setSp n) where
  frame p hp := by
    cases p with
    | sp => rfl
    | _ => exact h.frame _ hp
  regs := h.regs

theorem setSlot (j : Fin 16) (w : Word16) : MovesAlike parts s s' (t.setSlot j w) (u.setSlot j w) where
  frame p hp := by
    cases p with
    | stack => exact fun k => by rw [State.getSlot_setSlot, State.getSlot_setSlot, h.frame .stack hp k]
    | _ => exact h.frame _ hp
  regs := h.regs

theorem setDt (b : Byte) : MovesAlike parts s s' (t.setDt b) (u.setDt b) where
  frame p hp := by
    cases p with
    | delay => rfl
    | _ => exact h.frame _ hp
  regs := h.regs

theorem setSt (b : Byte) : MovesAlike parts s s' (t.setSt b) (u.setSt b) where
  frame p hp := by
    cases p with
    | sound => rfl
    | _ => exact h.frame _ hp
  regs := h.regs

theorem setRand (r : Byte) : MovesAlike parts s s' (t.setRand r) (u.setRand r) where
  frame p hp := by
    cases p with
    | rand => rfl
    | _ => exact h.frame _ hp
  regs := h.regs

theorem setDisp {d e : Display} (hde : ∀ x y, e.cell x y = d.cell x y) :
    MovesAlike parts s s' (t.setDisp d) (u.setDisp e) where
  frame p hp := by
    cases p with
    | display => exact hde
    | _ => exact h.frame _ hp
  regs := h.regs

theorem writeByte (a : Nat) (b : Byte) : MovesAlike parts s s' (t.writeByte a b) (u.writeByte a b) where
  frame p hp := by
    cases p with
    | memory => exact fun k => by rw [State.readByte_writeByte, State.readByte_writeByte, h.frame .memory hp k]
    | _ => exact h.frame _ hp
  regs := h.regs

theorem emit {o o' : Output} (ho : .outputs ∈ parts ∨ o' = o) : MovesAlike parts s s' (t.emit o) (u.emit o') where
  frame p hp := by
    cases p with
    | outputs =>
      obtain rfl : o' = o := ho.resolve_left hp
      exact congrArg (o' :: ·) (h.frame .outputs hp)
    | _ => exact h.frame _ hp
  regs := h.regs

theorem signalDisplayChanged (hout : HistoryMayDiffer parts) :
    MovesAlike parts s s' t.signalDisplayChanged u.signalDisplayChanged :=
  h.emit (hout.imp_right fun hparts => by
    obtain ⟨hdisp, hsnap⟩ := h.frame.delivered_eq hparts
    rw [hdisp, hsnap])

theorem setLogicResult (hconfig : u.config = t.config) (x : Reg) (r : Byte) :
    MovesAlike parts s s' (t.setLogicResult x r) (u.setLogicResult x r) := by
  unfold State.setLogicResult
  rw [hconfig]
  cases t.config.quirkLogicVfReset with
  | true => exact (h.setV x r).setV VF 0
  | false => exact h.setV x r

omit h in
theorem storeRegs (h : OnlyChanges parts s s') (hi : s'.i = s.i) (n : Nat) (hn : n ≤ 16)
    (hv : ∀ z : Reg, z.val < n → s'.getV z = s.getV z) : MovesAlike parts s s' (s.storeRegs n) (s'.storeRegs n) := by
  induction n with
  | zero => exact .start h
  | succ n ih =>
    have hlast : s'.getV (Fin.ofNat 16 n) = s.getV (Fin.ofNat 16 n) := hv _ (Nat.lt_succ_of_le (Nat.mod_le n 16))
    rw [State.storeRegs, State.storeRegs, State.indexed_eq, State.indexed_eq, hi, hlast]
    exact (ih (by omega) fun z hz => hv z (by omega)).writeByte _ _

omit h in
theorem loadRegs (h : OnlyChanges parts s s') (hi : s'.i = s.i) (hmem : ∀ a, s'.readByte a = s.readByte a) (n : Nat) :
    MovesAlike parts s s' (s.loadRegs n) (s'.loadRegs n) := by
  induction n with
  | zero => exact .start h
  | succ n ih =>
    rw [State.loadRegs, State.loadRegs, State.indexed_eq, State.indexed_eq, hi, hmem]
    exact ih.setV _ _

end MovesAlike

/-! ## Instructions -/

/-- The pixels of a sprite depend on I and the bytes of memory alone; where they fall on set cells, on the cells too. -/
theorem spritePixel_congr (hi : s'.i = s.i) (hmem : ∀ a, s'.readByte a = s.readByte a) (x0 y0 n px py : Nat) :
    s'.spritePixel x0 y0 n px py = s.spritePixel x0 y0 n px py := by
  rw [State.spritePixel, State.spritePixel, hi, hmem]

theorem plotSprite_cell_congr (hi : s'.i = s.i) (hmem : ∀ a, s'.readByte a = s.readByte a)
    (hdisp : ∀ x y, s'.disp.cell x y = s.disp.cell x y) (x0 y0 n x y : Nat) :
    (s'.plotSprite x0 y0 n).disp.cell x y = (s.plotSprite x0 y0 n).disp.cell x y := by
  rw [State.cell_plotSprite, State.cell_plotSprite, hdisp, spritePixel_congr hi hmem]

theorem plotSprite_collision_congr (hi : s'.i = s.i) (hmem : ∀ a, s'.readByte a = s.readByte a)
    (hdisp : ∀ x y, s'.disp.cell x y = s.disp.cell x y) (x0 y0 n : Nat) :
    (s'.plotSprite x0 y0 n).collision = (s.plotSprite x0 y0 n).collision := by
  rw [Bool.eq_iff_iff, State.collision_plotSprite, State.collision_plotSprite]
  simp only [hdisp, spritePixel_congr hi hmem]

theorem exec_drw_alike (h : OnlyChanges parts s s') (hout : HistoryMayDiffer parts) (hi : s'.i = s.i)
    (hmem : ∀ a, s'.readByte a = s.readByte a) (hdisp : ∀ x y, s'.disp.cell x y = s.disp.cell x y) {x y : Reg}
    (hx : s'.getV x = s.getV x) (hy : s'.getV y = s.getV y) (n : BitVec 4) :
    ∃ t u, exec (.drw x y n) s = .next t ∧ exec (.drw x y n) s' = .next u ∧ MovesAlike parts s s' t u := by
  refine ⟨_, _, exec_drw s x y n, exec_drw s' x y n, ?_⟩
  rw [hx, hy, plotSprite_collision_congr hi hmem hdisp]
  exact (((MovesAlike.start h).setDisp (plotSprite_cell_congr hi hmem hdisp _ _ _)).setV _ _).signalDisplayChanged hout

/-- FX0A finds the same key in both states, or waits in both. -/
theorem exec_ldKey_alike (h : OnlyChanges parts s s') (hpc : s'.pc = s.pc) (hcur : s'.keysCur = s.keysCur)
    (hlast : s'.keysLast = s.keysLast) (x : Reg) :
    ∃ t u, exec (.ldKey x) s = .next t ∧ exec (.ldKey x) s' = .next u ∧ MovesAlike parts s s' t u := by
  have hfound : releasedKey s'.keysLast s'.keysCur = releasedKey s.keysLast s.keysCur := by rw [hlast, hcur]
  cases hk : releasedKey s.keysLast s.keysCur with
  | none =>
    refine ⟨_, _, exec_ldKey_waiting s x hk, exec_ldKey_waiting s' x (hfound.trans hk), ?_⟩
    rw [hpc]
    exact (MovesAlike.start h).setPc _
  | some k =>
    exact ⟨_, _, exec_ldKey_released s x k hk, exec_ldKey_released s' x k (hfound.trans hk),
      (MovesAlike.start h).setV _ _⟩

/-- Two states that agree on what an instruction reads are moved alike by it. -/
theorem exec_alike (h : OnlyChanges parts s s') (hregs : ∀ z ∈ i.reads, s'.getV z = s.getV z)
    (hlooks : ∀ p ∈ i.looksAt, p ∉ parts) (hout : HistoryMayDiffer parts) :
    ∃ t u, exec i s = .next t ∧ exec i s' = .next u ∧ MovesAlike parts s s' t u := by
  have start := MovesAlike.start h
  have same {p : Part} (hp : p ∈ i.looksAt) : p.Same s s' := h p (hlooks p hp)
  cases i with
  | cls => exact ⟨_, _, rfl, rfl, (start.setDisp fun _ _ => rfl).signalDisplayChanged hout⟩
  | ret =>
    have hsp : s'.sp = s.sp := same (p := .sp) (by simp [Instr.looksAt])
    have hstack : ∀ j, s'.getSlot j = s.getSlot j := same (p := .stack) (by simp [Instr.looksAt])
    refine ⟨_, _, exec_ret s, exec_ret s', ?_⟩
    rw [hsp, hstack]
    exact (start.setSp _).setPc _
  | jp addr => exact ⟨_, _, rfl, rfl, start.setPc _⟩
  | call addr =>
    have hsp : s'.sp = s.sp := same (p := .sp) (by simp [Instr.looksAt])
    have hpc : s'.pc = s.pc := same (p := .pc) (by simp [Instr.looksAt])
    refine ⟨_, _, exec_call s addr, exec_call s' addr, ?_⟩
    rw [hsp, hpc]
    exact ((start.setSlot _ _).setSp _).setPc _
  | seImm x kk | sneImm x kk =>
    have hpc : s'.pc = s.pc := same (p := .pc) (by simp [Instr.looksAt])
    have hx : s'.getV x = s.getV x := hregs x (by simp [Instr.reads])
    refine ⟨_, _, rfl, rfl, ?_⟩
    rw [State.skipIf_eq, State.skipIf_eq, hpc, hx]
    exact start.setPc _
  | seReg x y | sneReg x y =>
    have hpc : s'.pc = s.pc := same (p := .pc) (by simp [Instr.looksAt])
    have hx : s'.getV x = s.getV x := hregs x (by simp [Instr.reads])
    have hy : s'.getV y = s.getV y := hregs y (by simp [Instr.reads])
    refine ⟨_, _, rfl, rfl, ?_⟩
    rw [State.skipIf_eq, State.skipIf_eq, hpc, hx, hy]
    exact start.setPc _
  | ldImm x kk => exact ⟨_, _, rfl, rfl, start.setV _ _⟩
  | addImm x kk =>
    have hx : s'.getV x = s.getV x := hregs x (by simp [Instr.reads])
    refine ⟨_, _, exec_addImm s x kk, exec_addImm s' x kk, ?_⟩
    rw [hx]
    exact start.setV _ _
  | ldReg x y =>
    have hy : s'.getV y = s.getV y := hregs y (by simp [Instr.reads])
    refine ⟨_, _, exec_ldReg s x y, exec_ldReg s' x y, ?_⟩
    rw [hy]
    exact start.setV _ _
  | orReg x y | andReg x y | xorReg x y =>
    have hconfig : s'.config = s.config := same (p := .config) (by simp [Instr.looksAt])
    have hx : s'.getV x = s.getV x := hregs x (by simp [Instr.reads])
    have hy : s'.getV y = s.getV y := hregs y (by simp [Instr.reads])
    refine ⟨_, _, rfl, rfl, ?_⟩
    rw [hx, hy]
    exact start.setLogicResult hconfig _ _
  | addReg x y | sub x y | subn x y =>
    have hx : s'.getV x = s.getV x := hregs x (by simp [Instr.reads])
    have hy : s'.getV y = s.getV y := hregs y (by simp [Instr.reads])
    refine ⟨_, _, rfl, rfl, ?_⟩
    rw [hx, hy]
    exact (start.setV _ _).setV _ _
  | shr x y | shl x y =>
    have hx : s'.getV x = s.getV x := hregs x (by simp [Instr.reads])
    refine ⟨_, _, rfl, rfl, ?_⟩
    rw [hx]
    exact (start.setV _ _).setV _ _
  | ldI addr => exact ⟨_, _, rfl, rfl, start.setI _⟩
  | jpV0 addr =>
    have h0 : s'.getV 0 = s.getV 0 := hregs 0 (by simp [Instr.reads])
    refine ⟨_, _, exec_jpV0 s addr, exec_jpV0 s' addr, ?_⟩
    rw [h0]
    exact start.setPc _
  | rnd x kk =>
    have hrand : s'.rand = s.rand := same (p := .rand) (by simp [Instr.looksAt])
    refine ⟨_, _, exec_rnd s x kk, exec_rnd s' x kk, ?_⟩
    rw [hrand]
    exact start.setV _ _
  | drw x y n =>
    have hi : s'.i = s.i := same (p := .index) (by simp [Instr.looksAt])
    have hmem : ∀ a, s'.readByte a = s.readByte a := same (p := .memory) (by simp [Instr.looksAt])
    have hdisp : ∀ x y, s'.disp.cell x y = s.disp.cell x y := same (p := .display) (by simp [Instr.looksAt])
    have hx : s'.getV x = s.getV x := hregs x (by simp [Instr.reads])
    have hy : s'.getV y = s.getV y := hregs y (by simp [Instr.reads])
    exact exec_drw_alike h hout hi hmem hdisp hx hy n
  | skp x | sknp x =>
    have hpc : s'.pc = s.pc := same (p := .pc) (by simp [Instr.looksAt])
    have hkeys : s'.keysCur = s.keysCur := same (p := .keysCur) (by simp [Instr.looksAt])
    have hx : s'.getV x = s.getV x := hregs x (by simp [Instr.reads])
    refine ⟨_, _, rfl, rfl, ?_⟩
    rw [State.skipIf_eq, State.skipIf_eq, hpc, hkeys, hx]
    exact start.setPc _
  | ldFromDt x =>
    have hdt : s'.dt = s.dt := same (p := .delay) (by simp [Instr.looksAt])
    refine ⟨_, _, exec_ldFromDt s x, exec_ldFromDt s' x, ?_⟩
    rw [hdt]
    exact start.setV _ _
  | ldKey x =>
    have hpc : s'.pc = s.pc := same (p := .pc) (by simp [Instr.looksAt])
    have hcur : s'.keysCur = s.keysCur := same (p := .keysCur) (by simp [Instr.looksAt])
    have hlast : s'.keysLast = s.keysLast := same (p := .keysLast) (by simp [Instr.looksAt])
    exact exec_ldKey_alike h hpc hcur hlast x
  | ldDt x =>
    have hx : s'.getV x = s.getV x := hregs x (by simp [Instr.reads])
    refine ⟨_, _, exec_ldDt s x, exec_ldDt s' x, ?_⟩
    rw [hx]
    exact start.setDt _
  | ldSt x =>
    have hx : s'.getV x = s.getV x := hregs x (by simp [Instr.reads])
    refine ⟨_, _, exec_ldSt s x, exec_ldSt s' x, ?_⟩
    rw [hx]
    exact start.setSt _
  | addI x =>
    have hi : s'.i = s.i := same (p := .index) (by simp [Instr.looksAt])
    have hx : s'.getV x = s.getV x := hregs x (by simp [Instr.reads])
    refine ⟨_, _, exec_addI s x, exec_addI s' x, ?_⟩
    rw [hi, hx]
    exact start.setI _
  | ldFont x =>
    have hconfig : s'.config = s.config := same (p := .config) (by simp [Instr.looksAt])
    have hx : s'.getV x = s.getV x := hregs x (by simp [Instr.reads])
    refine ⟨_, _, exec_ldFont s x, exec_ldFont s' x, ?_⟩
    rw [hconfig, hx]
    exact start.setI _
  | ldBcd x =>
    have hi : s'.i = s.i := same (p := .index) (by simp [Instr.looksAt])
    have hx : s'.getV x = s.getV x := hregs x (by simp [Instr.reads])
    refine ⟨_, _, exec_ldBcd s x, exec_ldBcd s' x, ?_⟩
    rw [hi, hx]
    exact ((start.writeByte _ _).writeByte _ _).writeByte _ _
  | saveRegs x =>
    have hi : s'.i = s.i := same (p := .index) (by simp [Instr.looksAt])
    have hv : ∀ z : Reg, z.val < x.val + 1 → s'.getV z = s.getV z := fun z hz =>
      hregs z (mem_regsUpTo.mpr (Nat.le_of_lt_succ hz))
    exact ⟨_, _, exec_saveRegs s x, exec_saveRegs s' x, .storeRegs h hi _ x.isLt hv⟩
  | loadRegs x =>
    have hi : s'.i = s.i := same (p := .index) (by simp [Instr.looksAt])
    have hmem : ∀ a, s'.readByte a = s.readByte a := same (p := .memory) (by simp [Instr.looksAt])
    exact ⟨_, _, exec_loadRegs s x, exec_loadRegs s' x, .loadRegs h hi hmem _⟩

/-- Settles O48: the other register file is a difference in the registers, which the instruction looks at by its row alone;
the history may differ, for 00E0 and DXYN deliver a snapshot of the registers. -/
theorem registersReadAreTheTables : Obligations.RegistersReadAreTheTables := by
  unfold Obligations.RegistersReadAreTheTables
  intro i s t v h hreads
  have hdiff : OnlyChanges [.regs, .outputs] s { s with v := v } := by
    intro p hp
    cases p with
    | regs => simp at hp
    | _ => simp [Part.Same, State.getSlot, State.readByte]
  have hlooks : ∀ p ∈ i.looksAt, p ∉ [Part.regs, .outputs] := by cases i <;> simp [Instr.looksAt]
  obtain ⟨t', u, ht', hu, halike⟩ := exec_alike hdiff hreads hlooks (.inl (by simp))
  obtain rfl := Host.Outcome.next.inj (ht'.symm.trans h)
  exact ⟨u, hu, halike.frame, halike.regs⟩

/-- Settles O46: the timers and the key masks are parts that only the four excepted instructions look at. -/
theorem ticksAreInvisibleToOtherInstructions : Obligations.TicksAreInvisibleToOtherInstructions := by
  unfold Obligations.TicksAreInvisibleToOtherInstructions
  intro i s t dt st cur last h hne
  have hdiff : OnlyChanges [.delay, .sound, .keysCur, .keysLast, .outputs] s
      { s with dt := dt, st := st, keysCur := cur, keysLast := last } := by
    intro p hp
    cases p with
    | delay | sound | keysCur | keysLast => simp at hp
    | _ => simp [Part.Same, State.getV, State.getSlot, State.readByte]
  have hlooks : ∀ p ∈ i.looksAt, p ∉ [Part.delay, .sound, .keysCur, .keysLast, .outputs] := by
    cases i <;> simp_all [Instr.looksAt]
  obtain ⟨t', u, ht', hu, halike⟩ := exec_alike hdiff (fun _ _ => rfl) hlooks (.inl (by simp))
  obtain rfl := Host.Outcome.next.inj (ht'.symm.trans h)
  exact ⟨u, hu, halike.frame⟩

end Sys2Proof.Machine
end

section
/-! Ticks and the wait for a key (60_exceptions.md R232 to R235, 44_timers_input.md R194 to R196). A tick is its own frame and
the two timers; the wait looks at the two masks that the tick moves. -/

namespace Sys2Proof.Machine

variable {s t : State}

/-! ## Ticks -/

theorem timerTick_toNat (b : Byte) : (timerTick b).toNat = b.toNat - 1 := by
  unfold timerTick
  split
  next hpos => bv_omega
  next hzero => omega

theorem State.onlyChanges_tick (s : State) (m : KeyMask) :
    OnlyChanges [.delay, .sound, .keysCur, .keysLast, .outputs] s (s.tick m) := by
  intro p hp
  cases p with
  | delay | sound | keysCur | keysLast | outputs => simp at hp
  | _ => simp [Part.Same]

theorem State.onlyChanges_stopRun (s : State) : OnlyChanges [.running, .ended] s s.stopRun := by
  intro p hp
  cases p with
  | running | ended => simp at hp
  | _ => simp [Part.Same]

theorem State.onlyChanges_takeEvent (s : State) : OnlyChanges [.inputs, .eventCount] s s.takeEvent := by
  intro p hp
  cases p with
  | inputs | eventCount => simp at hp
  | _ => simp [Part.Same]

/-- Settles O44: the move is the tick, made after the event is taken off the list. -/
theorem tickUpdatesTimersAndLatch : Obligations.TickUpdatesTimersAndLatch := by
  unfold Obligations.TickUpdatesTimersAndLatch
  intro s m hrun hev
  have hstep : step s = .next (s.takeEvent.tick m) := by
    rw [step_running hrun, hev, fireEvent_tick (by simpa using hrun)]
  refine ⟨_, hstep, by simp [timerTick_toNat], by simp [timerTick_toNat], by simp, by simp, ?outputs, ?frame⟩
  case outputs => rfl
  case frame => exact (s.onlyChanges_takeEvent.trans (State.onlyChanges_tick _ m)).mono (by simp)

/-- Ticks count the timers down and change nothing else but the latch and the history. -/
theorem runEvents_ticks (ms : List KeyMask) (hrun : s.running = true) :
    ∃ t, runEvents (ms.map Event.tick) s = .next t ∧ t.dt.toNat = s.dt.toNat - ms.length ∧
      t.st.toNat = s.st.toNat - ms.length ∧ OnlyChanges [.delay, .sound, .keysCur, .keysLast, .outputs] s t := by
  induction ms generalizing s with
  | nil => exact ⟨s, rfl, by simp, by simp, .refl _ s⟩
  | cons m ms ih =>
    obtain ⟨t, ht, hdt, hst, hframe⟩ := ih (s := s.tick m) (by simpa using hrun)
    have hdt1 : (s.tick m).dt.toNat = s.dt.toNat - 1 := timerTick_toNat s.dt
    have hst1 : (s.tick m).st.toNat = s.st.toNat - 1 := timerTick_toNat s.st
    refine ⟨t, ?_, ?_, ?_, ((s.onlyChanges_tick m).trans hframe).mono (by simp)⟩
    · rw [List.map_cons, runEvents_cons (fireEvent_tick hrun m), ht]
    · rw [hdt, hdt1, List.length_cons]
      omega
    · rw [hst, hst1, List.length_cons]
      omega

theorem soundActive_iff (s : State) : s.soundActive = true ↔ 0 < s.st.toNat := by
  rw [State.soundActive, bne_iff_ne]
  bv_omega

/-- Settles O45: by induction on the ticks; the sound is on while the sound timer has something left. -/
theorem ticksCountTimersDownToZero : Obligations.TicksCountTimersDownToZero := by
  unfold Obligations.TicksCountTimersDownToZero
  intro ms s hrun
  obtain ⟨t, ht, hdt, hst, hframe⟩ := runEvents_ticks ms hrun
  refine ⟨t, ht, hdt, hst, ?_, hframe⟩
  rw [soundActive_iff, hst]
  omega

/-! ## The wait for a key -/

/-- The number of a key that FX0A looks at fits in a register. -/
theorem keyNumber_toNat {k : Nat} (hk : k < 15) : (BitVec.ofNat 8 k).toNat = k :=
  BitVec.toNat_ofNat k 8 ▸ Nat.mod_eq_of_lt (by omega)

/-- Settles O41: the two outcomes of the scan, a store of the lowest released key and a rewind of PC. -/
theorem keyWaitTakesTheLowestRelease : Obligations.KeyWaitTakesTheLowestRelease := by
  unfold Obligations.KeyWaitTakesTheLowestRelease
  intro s x
  constructor
  · intro k hk hdown hup hlow
    refine ⟨_, exec_ldKey_released s x k (releasedKey_eq_some hk hdown hup hlow), ?_, s.onlyRegs_setV x _,
      s.onlyChanges_setV x _⟩
    rw [State.getV_setV_same, keyNumber_toNat hk]
  · intro hnone
    exact ⟨_, exec_ldKey_waiting s x (releasedKey_eq_none_iff.mpr hnone), rfl, s.onlyChanges_setPc _⟩

/-- Settles O42: the rewind takes back the advance at fetch. -/
theorem keyWaitIsABusyWait : Obligations.KeyWaitIsABusyWait := by
  unfold Obligations.KeyWaitIsABusyWait
  intro s r x hrun hev hdec hnone
  refine ⟨_, (step_of_decode hrun hev hdec).trans
    (exec_ldKey_waiting _ x (releasedKey_eq_none_iff.mpr hnone)), ?_⟩
  intro p hp
  cases p with
  | rand | inputs | eventCount => simp at hp
  | _ => simp [Part.Same]

/-- Two ticks leave the two samples in the two masks, whatever the masks were. -/
theorem runEvents_two_ticks (hrun : s.running = true) (m1 m2 : KeyMask) :
    runEvents [.tick m1, .tick m2] s = .next ((s.tick m1).tick m2) := by
  rw [runEvents_cons (fireEvent_tick hrun m1), runEvents_cons (fireEvent_tick (by simpa using hrun) m2), runEvents_nil]

/-- Settles O43: after two ticks the scan compares the two samples, so a press is no release. -/
theorem releaseBetweenTwoSamplesEndsTheWait : Obligations.ReleaseBetweenTwoSamplesEndsTheWait := by
  unfold Obligations.ReleaseBetweenTwoSamplesEndsTheWait
  intro s m1 m2 x hrun
  obtain ⟨u, hu, -⟩ := exec_answers (.ldKey x) ((s.tick m1).tick m2)
  have hlast : ((s.tick m1).tick m2).keysLast = m1 := rfl
  have hcur : ((s.tick m1).tick m2).keysCur = m2 := rfl
  refine ⟨_, u, runEvents_two_ticks hrun m1 m2, hu, ?released, ?waiting⟩
  case released =>
    intro k hk hdown hup hlow
    have hkey : releasedKey m1 m2 = some k := releasedKey_eq_some hk hdown hup fun j hj => by simpa using hlow j hj
    rw [exec_ldKey_released _ x k (by rw [hlast, hcur, hkey])] at hu
    obtain rfl := Host.Outcome.next.inj hu
    exact ⟨by rw [State.getV_setV_same, keyNumber_toNat hk], by simp⟩
  case waiting =>
    intro hnone
    have hkey : releasedKey m1 m2 = none := releasedKey_eq_none_iff.mpr fun k hk => by simpa using hnone k hk
    rw [exec_ldKey_waiting _ x (by rw [hlast, hcur, hkey])] at hu
    obtain rfl := Host.Outcome.next.inj hu
    exact ⟨by simp, by simp⟩

end Sys2Proof.Machine
end

section
/-! Runs that differ in the bookkeeping alone (60_exceptions.md R230, R231). No event looks at the model's event fields or at
the scheduler's timestamps, so a run of the machine on its list, and a pass of the concrete scheduler, are runs of the same
events. -/

namespace Sys2Proof.Machine

variable {parts : List Part} {s s' t u : State} {e : Event}

/-! ## Events move states alike that differ in the bookkeeping -/

/-- The parts that no event looks at: the model's event fields and the scheduler's timestamps. -/
def bookkeeping : List Part := [.inputs, .eventCount, .stepStamp, .tickStamp]

theorem OnlyChanges.tickTimers (h : OnlyChanges parts s s') : OnlyChanges parts s.tickTimers s'.tickTimers := by
  intro p hp
  cases p with
  | delay => exact congrArg timerTick (h .delay hp)
  | sound => exact congrArg timerTick (h .sound hp)
  | _ => exact h _ hp

theorem OnlyChanges.latchKeys (h : OnlyChanges parts s s') (hcur : s'.keysCur = s.keysCur) (m : KeyMask) :
    OnlyChanges parts (s.latchKeys m) (s'.latchKeys m) := by
  intro p hp
  cases p with
  | keysCur => rfl
  | keysLast => exact hcur
  | _ => exact h _ hp

theorem OnlyChanges.stopRun (h : OnlyChanges parts s s') : OnlyChanges parts s.stopRun s'.stopRun := by
  intro p hp
  cases p with
  | running | ended => rfl
  | _ => exact h _ hp

theorem OnlyChanges.signalRenderTick (h : OnlyChanges parts s s') (hparts : ∀ p ∈ deliveredParts, p ∉ parts) :
    OnlyChanges parts s.signalRenderTick s'.signalRenderTick := by
  obtain ⟨hdisp, hsnap⟩ := h.delivered_eq hparts
  refine ((MovesAlike.start h).emit (.inr ?_)).frame
  rw [hdisp, hsnap]

section
variable (h : OnlyChanges parts s s') (hsub : parts ⊆ bookkeeping)
include h hsub

theorem same_of_bookkeeping {p : Part} (hp : p ∉ bookkeeping) : p.Same s s' := h p fun hmem => hp (hsub hmem)

theorem fetchWord_of_bookkeeping : s'.fetchWord = s.fetchWord := by
  have hpc : s'.pc = s.pc := same_of_bookkeeping h hsub (p := .pc) (by decide)
  have hmem : ∀ a, s'.readByte a = s.readByte a := same_of_bookkeeping h hsub (p := .memory) (by decide)
  rw [State.fetchWord, State.fetchWord, hpc, hmem, hmem]

theorem prepared_of_bookkeeping (r : Byte) : OnlyChanges parts (s.setRand r).advancePc (s'.setRand r).advancePc := by
  have hpc : s'.pc = s.pc := same_of_bookkeeping h hsub (p := .pc) (by decide)
  rw [State.advancePc_eq, State.advancePc_eq, State.setRand_pc, State.setRand_pc, hpc]
  exact (((MovesAlike.start h).setRand r).setPc _).frame

theorem instrStep_alike (r : Byte) :
    ∃ t u, s.instrStep r = .next t ∧ s'.instrStep r = .next u ∧ OnlyChanges parts t u := by
  have hprepared := prepared_of_bookkeeping h hsub r
  have hfetch := fetchWord_of_bookkeeping h hsub
  cases hd : decodeWord s.fetchWord with
  | error e => exact ⟨_, _, instrStep_of_reject hd r, instrStep_of_reject (hfetch ▸ hd) r, hprepared⟩
  | ok i =>
    have hregs : ∀ z, (s'.setRand r).advancePc.getV z = (s.setRand r).advancePc.getV z :=
      same_of_bookkeeping h hsub (p := .regs) (by decide)
    have hlooks : ∀ p ∈ i.looksAt, p ∉ bookkeeping := by cases i <;> simp [Instr.looksAt, bookkeeping]
    have hdelivered : ∀ p ∈ deliveredParts, p ∉ bookkeeping := by decide
    obtain ⟨t, u, ht, hu, halike⟩ := exec_alike hprepared (fun z _ => hregs z)
      (fun p hp hmem => hlooks p hp (hsub hmem)) (.inr fun p hp hmem => hdelivered p hp (hsub hmem))
    exact ⟨t, u, (instrStep_of_decode hd r).trans ht, (instrStep_of_decode (hfetch ▸ hd) r).trans hu, halike.frame⟩

theorem fireEvent_alike (e : Event) :
    ∃ t u, fireEvent e s = .next t ∧ fireEvent e s' = .next u ∧ OnlyChanges parts t u := by
  have hrunning : s'.running = s.running := same_of_bookkeeping h hsub (p := .running) (by decide)
  cases hrun : s.running with
  | false => exact ⟨s, s', fireEvent_stopped hrun e, fireEvent_stopped (hrunning.trans hrun) e, h⟩
  | true =>
    cases e with
    | step r =>
      obtain ⟨t, u, ht, hu, halike⟩ := instrStep_alike h hsub r
      exact ⟨t, u, (fireEvent_step hrun r).trans ht, (fireEvent_step (hrunning.trans hrun) r).trans hu, halike⟩
    | tick m =>
      have hcur : s'.keysCur = s.keysCur := same_of_bookkeeping h hsub (p := .keysCur) (by decide)
      have hdelivered : ∀ p ∈ deliveredParts, p ∉ bookkeeping := by decide
      exact ⟨_, _, fireEvent_tick hrun m, fireEvent_tick (hrunning.trans hrun) m,
        (h.tickTimers.latchKeys hcur m).signalRenderTick fun p hp hmem => hdelivered p hp (hsub hmem)⟩
    | stop => exact ⟨_, _, fireEvent_stop hrun, fireEvent_stop (hrunning.trans hrun), h.stopRun⟩

end

/-! ## What an event leaves to the outside -/

/-- A step or a tick writes neither the run flag nor the bookkeeping. -/
theorem fireEvent_onlyChanges (he : e ≠ .stop) (h : fireEvent e s = .next t) :
    OnlyChanges [.regs, .index, .pc, .sp, .stack, .delay, .sound, .display, .memory, .outputs, .rand, .keysCur,
      .keysLast] s t := by
  obtain ⟨-, rfl⟩ | ⟨-, r, -, hstep⟩ | ⟨-, m, -, rfl⟩ | ⟨-, rfl, -⟩ := fireEvent_cases h
  · exact .refl _ _
  · have hprepared : OnlyChanges [.pc, .rand] s (s.setRand r).advancePc := by
      intro p hp
      cases p with
      | pc | rand => simp at hp
      | _ => simp [Part.Same]
    obtain ⟨i, -, hexec⟩ | ⟨_, -, rfl⟩ := instrStep_cases hstep
    · exact (hprepared.trans (exec_onlyChanges_core hexec)).mono (by simp)
    · exact hprepared.mono (by simp)
  · exact (s.onlyChanges_tick m).mono (by simp)
  · exact absurd rfl he

/-! ## A list of events is a run of the machine -/

/-- The moves of a machine that has the events on its list, and the events themselves from a state that differs from it in
the event fields alone. -/
theorem core_run_of_inputs (es rest : List Event) (hstop : Event.stop ∉ es) {s s' : State}
    (h : OnlyChanges [.inputs, .eventCount] s' s) (hrun : s.running = true) (hinputs : s.inputs = es ++ rest) :
    ∃ t u, Host.Core.run Sys2Proof.core es.length s = .next t ∧ runEvents es s' = .next u ∧
      t.inputs = rest ∧ t.eventCount = s.eventCount + es.length ∧ OnlyChanges [.inputs, .eventCount] u t := by
  induction es generalizing s s' with
  | nil => exact ⟨s, s', rfl, rfl, hinputs, rfl, h⟩
  | cons e es ih =>
    obtain ⟨he, hes⟩ : Event.stop ≠ e ∧ Event.stop ∉ es := by simpa using hstop
    have htaken : OnlyChanges [.inputs, .eventCount] s' s.takeEvent := (h.trans s.onlyChanges_takeEvent).mono (by simp)
    obtain ⟨u1, t1, hu1, ht1, halike⟩ := fireEvent_alike htaken (by decide) e
    have hkept := fireEvent_onlyChanges he.symm ht1
    have hrun1 : t1.running = s.running := hkept .running (by simp)
    have hinputs1 : t1.inputs = s.inputs.tail := hkept .inputs (by simp)
    have hcount1 : t1.eventCount = s.eventCount + 1 := hkept .eventCount (by simp)
    have hmove : step s = .next t1 := by rw [step_running hrun, nextEvent_cons e _ hinputs, ht1]
    obtain ⟨t, u, ht, hu, hrest, hcount, hframe⟩ := ih hes halike (hrun1.trans hrun) (by rw [hinputs1, hinputs]; rfl)
    refine ⟨t, u, ?_, ?_, hrest, ?_, hframe⟩
    · rw [List.length_cons, core_run_succ (M := Sys2Proof.core) hmove, ht]
    · rw [runEvents_cons hu1, hu]
    · rw [hcount, hcount1, List.length_cons]
      omega

/-- Settles O58: the machine and the events start from the same state. -/
theorem everySequenceOfEventsIsARun : Obligations.EverySequenceOfEventsIsARun := by
  unfold Obligations.EverySequenceOfEventsIsARun
  intro es rest s hrun hinputs hstop
  exact core_run_of_inputs es rest hstop (.refl _ s) hrun hinputs

/-! ## A pass of the concrete scheduler is a run of the events that are due -/

theorem runEvents_append (es fs : List Event) (s : State) :
    runEvents (es ++ fs) s = andThen (runEvents es s) (runEvents fs) := by
  induction es generalizing s with
  | nil => rfl
  | cons e es ih =>
    obtain ⟨t, ht⟩ := fireEvent_answers e s
    rw [List.cons_append, runEvents_cons ht, runEvents_cons ht, ih]

theorem State.onlyChanges_stepStamp (s : State) (clock : Nat) : OnlyChanges [.stepStamp] s { s with tStep := clock } := by
  intro p hp
  cases p with
  | stepStamp => simp at hp
  | _ => simp [Part.Same, State.getV, State.getSlot, State.readByte]

theorem State.onlyChanges_tickStamp (s : State) (clock : Nat) : OnlyChanges [.tickStamp] s { s with tTick := clock } := by
  intro p hp
  cases p with
  | tickStamp => simp at hp
  | _ => simp [Part.Same, State.getV, State.getSlot, State.readByte]

/-- One cadence: when it is due it stamps the clock and fires its event, else it does nothing. -/
theorem cadence_alike (due : Prop) [Decidable due] (he : e ≠ .stop) {stamped : State}
    (h : OnlyChanges [.stepStamp, .tickStamp] u s) (hstamped : OnlyChanges [.stepStamp, .tickStamp] s stamped) :
    ∃ t w, (if due then fireEvent e stamped else .next s) = .next t ∧
      runEvents (if due then [e] else []) u = .next w ∧ OnlyChanges [.stepStamp, .tickStamp] w t ∧
      t.tStep = (if due then stamped.tStep else s.tStep) ∧ t.tTick = (if due then stamped.tTick else s.tTick) := by
  by_cases hdue : due
  · have hboth : OnlyChanges [.stepStamp, .tickStamp] u stamped := (h.trans hstamped).mono (by simp)
    obtain ⟨w, t, hw, ht, halike⟩ := fireEvent_alike hboth (by decide) e
    have hkept := fireEvent_onlyChanges he ht
    simp only [if_pos hdue]
    exact ⟨t, w, ht, runEvents_cons hw, halike, hkept .stepStamp (by simp), hkept .tickStamp (by simp)⟩
  · simp only [if_neg hdue]
    exact ⟨s, u, rfl, rfl, h, rfl, rfl⟩

/-- The step cadence is due on the condition of R231, and fires a step on the state with the clock stored. -/
theorem stepCadence_eq (p : PassInput) (s : State) : stepCadence p s =
    if (p.stepTest - s.tStep) * s.config.ips > 1000000000 then fireEvent (.step p.rand) { s with tStep := p.stepFired }
    else .next s := by
  simp only [stepCadence, due, decide_eq_true_eq]

theorem tickCadence_eq (p : PassInput) (s : State) : tickCadence p s =
    if (p.tickTest - s.tTick) * 60 > 1000000000 then fireEvent (.tick p.keys) { s with tTick := p.tickFired }
    else .next s := by
  simp only [tickCadence, due, decide_eq_true_eq]

theorem schedulerPass_running (p : PassInput) (hrun : s.running = true) :
    schedulerPass p s = andThen (stepCadence p s) (tickCadence p) := if_pos hrun

/-- Settles O60: each cadence fires its event or not, and the second starts where the first ends. -/
theorem schedulerPassIsARunOfEvents : Obligations.SchedulerPassIsARunOfEvents := by
  unfold Obligations.SchedulerPassIsARunOfEvents
  intro p s hrun
  obtain ⟨t1, u1, ht1, hu1, halike1, hstep1, htick1⟩ := cadence_alike (e := .step p.rand)
    ((p.stepTest - s.tStep) * s.config.ips > 1000000000) (by simp) (.refl _ s)
    ((s.onlyChanges_stepStamp p.stepFired).mono (by simp))
  obtain ⟨t, u, ht, hu, halike, hstep, htick⟩ := cadence_alike (e := .tick p.keys)
    ((p.tickTest - t1.tTick) * 60 > 1000000000) (by simp) halike1
    ((t1.onlyChanges_tickStamp p.tickFired).mono (by simp))
  rw [htick1, ite_self] at ht hu htick
  refine ⟨t, u, ?_, ?_, halike, ?_, ?_⟩
  · rw [schedulerPass_running p hrun, stepCadence_eq, ht1, andThen_next, tickCadence_eq, htick1, ite_self, ht]
  · rw [runEvents_append, hu1, andThen_next, hu]
  · rw [hstep, ite_self, hstep1]
  · exact htick

end Sys2Proof.Machine
end

section
/-! The self-jump (70_reset_and_hazards.md R266). A jump to its own address puts PC back where the fetch found it, and no event
writes memory there, so the word at PC stays the jump. -/

namespace Sys2Proof.Machine

variable {s t : State}

theorem idle_iff : s.idle = true ↔ s.pc.toNat < memSize ∧ s.fetchWord = formatA 0x1 (s.pc.setWidth 12) := by
  simp [State.idle]

/-- Idleness is about PC and the bytes of memory alone. -/
theorem OnlyChanges.idle {parts : List Part} (h : OnlyChanges parts s t) (hpc : .pc ∉ parts) (hmem : .memory ∉ parts)
    (hidle : s.idle = true) : t.idle = true := by
  have hpc : t.pc = s.pc := h .pc hpc
  have hmem : ∀ a, t.readByte a = s.readByte a := h .memory hmem
  rw [← hidle, State.idle, State.idle, State.fetchWord, State.fetchWord, hpc, hmem, hmem]

/-- An address of the address space is its own low twelve bits. -/
theorem absolute_setWidth {pc : Word16} (h : pc.toNat < memSize) : absolute (pc.setWidth 12) = pc := by
  rw [absolute, memSize] at *
  bv_omega

/-- A step at a self-jump latches its byte and is back at the same PC. -/
theorem instrStep_of_idle (hidle : s.idle = true) (r : Byte) :
    ∃ t, s.instrStep r = .next t ∧ OnlyChanges [.rand] s t := by
  obtain ⟨hpc, hfetch⟩ := idle_iff.mp hidle
  have hdec : decodeWord s.fetchWord = .ok (.jp (s.pc.setWidth 12)) := hfetch ▸ decodeWord_encode (.jp (s.pc.setWidth 12))
  refine ⟨_, (instrStep_of_decode hdec r).trans (exec_jp _ _), ?_⟩
  rw [absolute_setWidth hpc]
  intro p hp
  cases p with
  | rand => simp at hp
  | _ => simp [Part.Same]

/-- No event takes an idle machine further than a tick, a latched byte or the stop. -/
theorem fireEvent_of_idle (hidle : s.idle = true) (e : Event) : ∃ t, fireEvent e s = .next t ∧
    OnlyChanges [.delay, .sound, .keysCur, .keysLast, .outputs, .rand, .running, .ended] s t := by
  cases hrun : s.running with
  | false => exact ⟨s, fireEvent_stopped hrun e, .refl _ s⟩
  | true =>
    cases e with
    | step r =>
      obtain ⟨t, ht, hframe⟩ := instrStep_of_idle hidle r
      exact ⟨t, (fireEvent_step hrun r).trans ht, hframe.mono (by simp)⟩
    | tick m => exact ⟨_, fireEvent_tick hrun m, (s.onlyChanges_tick m).mono (by simp)⟩
    | stop => exact ⟨_, fireEvent_stop hrun, s.onlyChanges_stopRun.mono (by simp)⟩

/-- Settles O59: by induction on the events, idleness being kept by the frame of each. -/
theorem selfJumpIdlesForEver : Obligations.SelfJumpIdlesForEver := by
  unfold Obligations.SelfJumpIdlesForEver
  intro es s hidle
  induction es generalizing s with
  | nil => exact ⟨s, rfl, hidle, .refl _ s⟩
  | cons e es ih =>
    obtain ⟨t, ht, hframe⟩ := fireEvent_of_idle hidle e
    obtain ⟨u, hu, huidle, hrest⟩ := ih t (hframe.idle (by simp) (by simp) hidle)
    exact ⟨u, (runEvents_cons ht).trans hu, huidle, (hframe.trans hrest).mono (by simp)⟩

end Sys2Proof.Machine
end

section
/-! Memory: the fetch, FX33, FX55 and FX65, and the canonical form (20_memory.md sections 1 to 3, 42_index_memory.md). An
address counts mod 4096 (D5), so what a block of stores leaves at a byte depends on the byte's address mod 4096. -/

namespace Sys2Proof.Machine

variable {s t u : State}

/-! ## The fetch -/

theorem wordOfBytes_toNat (hi lo : Byte) : (wordOfBytes hi lo).toNat = 256 * hi.toNat + lo.toNat := by
  have hlo : lo.toNat < 2 ^ 8 := lo.isLt
  rw [wordOfBytes, BitVec.toNat_append, ← Nat.shiftLeft_add_eq_or_of_lt hlo, Nat.shiftLeft_eq, Nat.mul_comm]

/-- The word at PC, the byte at PC being the more significant (R56). -/
theorem fetchWord_toNat (s : State) :
    s.fetchWord.toNat = 256 * (s.readByte s.pc.toNat).toNat + (s.readByte (s.pc.toNat + 1)).toNat :=
  wordOfBytes_toNat _ _

/-- Settles O5: the fetch reads the two bytes at addresses that a reading reduces mod 4096. -/
theorem fetchIsBigEndianAndWraps : Obligations.FetchIsBigEndianAndWraps := by
  unfold Obligations.FetchIsBigEndianAndWraps
  intro s
  rw [fetchWord_toNat, s.readByte_congr (Nat.mod_mod s.pc.toNat memSize),
    s.readByte_congr (Nat.mod_mod (s.pc.toNat + 1) memSize)]

/-! ## FX33 -/

theorem hundreds_toNat (b : Byte) : (hundreds b).toNat = b.toNat / 100 := by
  rw [hundreds, BitVec.toNat_ofNat]
  omega

theorem tens_toNat (b : Byte) : (tens b).toNat = b.toNat / 10 % 10 := by
  rw [tens, BitVec.toNat_ofNat]
  omega

theorem units_toNat (b : Byte) : (units b).toNat = b.toNat % 10 := by
  rw [units, BitVec.toNat_ofNat]
  omega

/-- Settles O29: three addresses in a row name three different bytes, so no digit is stored over another. -/
theorem bcdStoresThreeDigits : Obligations.BcdStoresThreeDigits := by
  unfold Obligations.BcdStoresThreeDigits
  intro s x
  obtain ⟨t, ht, hframe⟩ := exec_answers (.ldBcd x) s
  obtain rfl := Host.Outcome.next.inj ((exec_ldBcd s x).symm.trans ht)
  refine ⟨_, ht, ?hundreds, ?tens, ?units, fun a ha => ?outside, hframe⟩
  all_goals simp only [State.readByte_writeByte, State.indexed_eq, memSize, if_true] at *
  case hundreds => rw [if_neg (by omega), if_neg (by omega), if_pos (by omega), hundreds_toNat]
  case tens => rw [if_neg (by omega), tens_toNat]
  case units => exact units_toNat _
  case outside =>
    exact (if_neg (ha 2 (by decide))).trans ((if_neg (ha 1 (by decide))).trans (if_neg (ha 0 (by decide))))

/-! ## FX55 and FX65 -/

/-- The byte that holds V[z] after V0..Vx are stored. -/
theorem readByte_storeRegs (s : State) {x z : Reg} (hz : z ≤ x) :
    (s.storeRegs (x.val + 1)).readByte (s.indexed z.val) = s.getV z := by
  rw [State.indexed_eq, s.readByte_storeRegs_inside _ z.val x.isLt (Nat.lt_succ_of_le hz), Fin.ofNat_val_eq_self]

/-- V[z] after V0..Vx are loaded. -/
theorem getV_loadRegs_of_le (s : State) {x z : Reg} (hz : z ≤ x) :
    (s.loadRegs (x.val + 1)).getV z = s.readByte (s.indexed z.val) := by
  rw [s.getV_loadRegs _ x.isLt, if_pos (Nat.lt_succ_of_le hz), State.indexed_eq]

/-- Settles O30: inside the block a byte is its register, outside it is as before. -/
theorem saveStoresV0ToVx : Obligations.SaveStoresV0ToVx := by
  unfold Obligations.SaveStoresV0ToVx
  intro s x
  refine ⟨_, exec_saveRegs s x, fun z hz => readByte_storeRegs s hz, fun a ha => ?_, s.onlyChanges_storeRegs _⟩
  exact s.readByte_storeRegs_outside _ a fun k hk => ha k (Nat.le_of_lt_succ hk)

/-- Settles O31: the registers up to x are the bytes of the block, the others are outside the instruction's row. -/
theorem loadReadsV0ToVx : Obligations.LoadReadsV0ToVx := by
  unfold Obligations.LoadReadsV0ToVx
  intro s x
  refine ⟨_, exec_loadRegs s x, fun z hz => ?_, fun z hz => ?_, s.onlyChanges_loadRegs _⟩
  · rw [getV_loadRegs_of_le s hz, s.readByte_congr (Nat.mod_mod _ memSize)]
  · exact s.onlyRegs_loadRegs x z (mt mem_regsUpTo.mp (not_le.mpr hz))

/-- Settles O32: the load reads the bytes that the save stored. -/
theorem loadRestoresWhatSaveStored : Obligations.LoadRestoresWhatSaveStored := by
  unfold Obligations.LoadRestoresWhatSaveStored
  intro s t u x h hi hmem
  obtain rfl := Host.Outcome.next.inj h
  refine ⟨_, exec_loadRegs u x, fun z hz => ?_⟩
  have hindexed : u.indexed z.val = s.indexed z.val := by simp [hi]
  rw [getV_loadRegs_of_le u hz, hindexed, hmem, readByte_storeRegs s hz]

/-- Settles O33: the fetch of the next word reads the memory that the step has left. -/
theorem storeIsVisibleToTheNextFetch : Obligations.StoreIsVisibleToTheNextFetch := by
  unfold Obligations.StoreIsVisibleToTheNextFetch
  intro s r x hrun hev hdec
  refine ⟨_, (step_of_decode hrun hev hdec).trans (exec_saveRegs _ x), by simp, fun z hz => ?_⟩
  set p := (s.takeEvent.setRand r).setPc (s.pc + 2)
  have stored {a : Nat} (ha : s.indexed z.val % 4096 = a % 4096) :
      (p.storeRegs (x.val + 1)).readByte a = s.getV z := by
    rw [← State.readByte_congr _ ha]
    exact readByte_storeRegs p hz
  rw [fetchWord_toNat]
  constructor
  · intro ha
    rw [stored ha]
    omega
  · intro ha
    rw [stored ha]
    omega

/-! ## The canonical form -/

/-- In canonical form the listed bytes are those that a lookup finds. -/
theorem Memory.mem_iff_lookup {m : Memory} (hm : m.Pairwise fun p q => p.1 < q.1) {a : Nat} {b : Byte} :
    (a, b) ∈ m ↔ Memory.lookup m a = some b := by
  induction m with
  | nil => simp [Memory.lookup]
  | cons p m ih =>
    obtain ⟨k, e⟩ := p
    obtain ⟨hlow, hm⟩ := List.pairwise_cons.mp hm
    rw [Memory.lookup, List.mem_cons, ih hm, Prod.mk.injEq]
    by_cases hk : k = a
    · have hout : Memory.lookup m a ≠ some b := fun h => (hlow _ ((ih hm).mpr h)).ne hk
      simp [hk, hout, eq_comm]
    · simp [hk, Ne.symm hk]

/-- In canonical form the listed bytes are those that differ from the contents after `init`. -/
theorem Memory.mem_iff_read {c : Config} {m : Memory} (hm : Memory.wf c m) {a : Nat} {b : Byte} :
    (a, b) ∈ m ↔ a < memSize ∧ Memory.read c m a = b ∧ b ≠ initByte c a := by
  obtain ⟨hsorted, hlisted⟩ := hm
  constructor
  · intro hmem
    have hlookup := (Memory.mem_iff_lookup hsorted).mp hmem
    exact ⟨(hlisted _ hmem).1, by rw [Memory.read, hlookup, Option.getD_some], (hlisted _ hmem).2⟩
  · rintro ⟨-, hread, hne⟩
    rw [Memory.mem_iff_lookup hsorted]
    cases hlookup : Memory.lookup m a with
    | none => exact absurd (by rw [← hread, Memory.read, hlookup, Option.getD_none]) hne
    | some e => rw [← hread, Memory.read, hlookup, Option.getD_some]

/-- Settles O34: both lists hold the same bytes, and a list by strictly rising addresses is determined by what it holds. -/
theorem canonicalMemoryIsItsBytes : Obligations.CanonicalMemoryIsItsBytes := by
  unfold Obligations.CanonicalMemoryIsItsBytes
  intro c m n hm hn hread
  have hmem : ∀ p : Host.Cell, p ∈ m ↔ p ∈ n := by
    rintro ⟨a, b⟩
    rw [Memory.mem_iff_read hm, Memory.mem_iff_read hn]
    exact and_congr_right fun ha => by rw [hread a ha]
  have hperm : m.Perm n :=
    (List.perm_ext_iff_of_nodup (hm.1.imp fun h => by rintro rfl; exact h.ne rfl)
      (hn.1.imp fun h => by rintro rfl; exact h.ne rfl)).mpr hmem
  exact hperm.eq_of_pairwise (fun p q _ _ hpq hqp => absurd hqp hpq.asymm) hm.1 hn.1

end Sys2Proof.Machine
end

section
/-! The instructions of class 8 with a flag, and the other instructions of one or two updates (41_alu.md section 3,
40_control_flow.md, 44_timers_input.md section 3). Result and flag are written by one operation, flag last (D4), so one lemma
says what VF, Vx and the other registers hold. -/

namespace Sys2Proof.Machine

/-! ## Result and flag -/

theorem State.getV_setResultAndFlag_VF (s : State) (x : Reg) (r f : Byte) : (s.setResultAndFlag x r f).getV VF = f := by
  rw [State.getV_setResultAndFlag, if_pos rfl]

theorem State.getV_setResultAndFlag_of_ne (s : State) {x : Reg} (hx : x ≠ VF) (r f : Byte) :
    (s.setResultAndFlag x r f).getV x = r := by
  rw [State.getV_setResultAndFlag, if_neg hx, if_pos rfl]

theorem flagByte_toNat (cond : Bool) : (flagByte cond).toNat = if cond = true then 1 else 0 := by
  cases cond <;> rfl

theorem carry_toNat (a b : Byte) : (carry a b).toNat = if a.toNat + b.toNat > 255 then 1 else 0 := by
  simp only [carry, flagByte_toNat, decide_eq_true_eq]

theorem notBorrow_toNat (a b : Byte) : (notBorrow a b).toNat = if a.toNat ≥ b.toNat then 1 else 0 := by
  simp only [notBorrow, flagByte_toNat, decide_eq_true_eq]

theorem diff8_toNat (a b : Byte) : ((diff8 a b).toNat : Int) = (a.toNat - b.toNat : Int) % 256 := by
  rw [diff8, BitVec.toNat_ofNat]
  omega

theorem shiftRight8_toNat (a : Byte) : (shiftRight8 a).toNat = a.toNat / 2 := by
  rw [shiftRight8, BitVec.toNat_ushiftRight, Nat.shiftRight_one]

theorem bitShiftedRight_toNat (a : Byte) : (bitShiftedRight a).toNat = a.toNat % 2 := by
  rw [bitShiftedRight, BitVec.toNat_and]
  exact Nat.and_one_is_mod _

theorem shiftLeft8_toNat (a : Byte) : (shiftLeft8 a).toNat = a.toNat * 2 % 256 := by
  rw [shiftLeft8, BitVec.toNat_shiftLeft, Nat.shiftLeft_eq]

theorem bitShiftedLeft_toNat (a : Byte) : (bitShiftedLeft a).toNat = a.toNat / 128 := by
  rw [bitShiftedLeft, BitVec.toNat_and, BitVec.toNat_ushiftRight, Nat.shiftRight_eq_div_pow]
  refine (Nat.and_one_is_mod _).trans ?_
  omega

/-- Settles O21: the sum is the result and the carry the flag. -/
theorem addSetsCarry : Obligations.AddSetsCarry := by
  unfold Obligations.AddSetsCarry
  intro s x y
  refine ⟨_, exec_addReg s x y, ?_, fun hx => ?_, s.onlyRegs_setResultAndFlag x _ _, s.onlyChanges_setResultAndFlag x _ _⟩
  · rw [State.getV_setResultAndFlag_VF, carry_toNat]
  · rw [State.getV_setResultAndFlag_of_ne s hx, sum8_toNat]

/-- Settles O22: 8XY5 and 8XY7 are the same difference and flag, with the operands exchanged. -/
theorem subtractionsSetNotBorrow : Obligations.SubtractionsSetNotBorrow := by
  unfold Obligations.SubtractionsSetNotBorrow
  intro s x y
  constructor
  · refine ⟨_, exec_sub s x y, ?_, fun hx => ?_, s.onlyRegs_setResultAndFlag x _ _, s.onlyChanges_setResultAndFlag x _ _⟩
    · rw [State.getV_setResultAndFlag_VF, notBorrow_toNat]
    · rw [State.getV_setResultAndFlag_of_ne s hx, diff8_toNat]
  · refine ⟨_, exec_subn s x y, ?_, fun hx => ?_, s.onlyRegs_setResultAndFlag x _ _, s.onlyChanges_setResultAndFlag x _ _⟩
    · rw [State.getV_setResultAndFlag_VF, notBorrow_toNat]
    · rw [State.getV_setResultAndFlag_of_ne s hx, diff8_toNat]

/-- Settles O23: the shifted Vx is the result and the bit it loses the flag. -/
theorem shiftsPutTheLostBitInVf : Obligations.ShiftsPutTheLostBitInVf := by
  unfold Obligations.ShiftsPutTheLostBitInVf
  intro s x y
  constructor
  · refine ⟨_, exec_shr s x y, ?_, fun hx => ?_, s.onlyRegs_setResultAndFlag x _ _, s.onlyChanges_setResultAndFlag x _ _⟩
    · rw [State.getV_setResultAndFlag_VF, bitShiftedRight_toNat]
    · rw [State.getV_setResultAndFlag_of_ne s hx, shiftRight8_toNat]
  · refine ⟨_, exec_shl s x y, ?_, fun hx => ?_, s.onlyRegs_setResultAndFlag x _ _, s.onlyChanges_setResultAndFlag x _ _⟩
    · rw [State.getV_setResultAndFlag_VF, bitShiftedLeft_toNat]
    · rw [State.getV_setResultAndFlag_of_ne s hx, shiftLeft8_toNat]

/-! ## The logic instructions -/

/-- Vx holds the result unless the quirk has put 0 into it. -/
theorem State.getV_setLogicResult_same (s : State) {x : Reg} (h : x ≠ VF ∨ s.config.quirkLogicVfReset = false) (r : Byte) :
    (s.setLogicResult x r).getV x = r := by
  rw [State.getV_setLogicResult, if_neg, if_pos rfl]
  rintro ⟨hquirk, hvf⟩
  obtain hx | hoff := h
  · exact hx hvf
  · exact absurd (hquirk.symm.trans hoff) (by decide)

/-- What the three logic instructions share: the result in Vx, then the quirk. -/
theorem State.setLogicResult_spec (s : State) (x y : Reg) {op : Bool → Bool → Bool} {r : Byte}
    (hr : ∀ k, r.getLsbD k = op ((s.getV x).getLsbD k) ((s.getV y).getLsbD k)) :
    (s.config.quirkLogicVfReset = true →
      (s.setLogicResult x r).getV VF = 0 ∧ OnlyRegs [x, VF] s (s.setLogicResult x r)) ∧
    (s.config.quirkLogicVfReset = false → OnlyRegs [x] s (s.setLogicResult x r)) ∧
    (x ≠ VF ∨ s.config.quirkLogicVfReset = false → ∀ k < 8,
      ((s.setLogicResult x r).getV x).getLsbD k = op ((s.getV x).getLsbD k) ((s.getV y).getLsbD k)) ∧
    OnlyChanges [.regs] s (s.setLogicResult x r) := by
  have hregs := s.onlyRegs_setLogicResult x r
  refine ⟨fun hon => ⟨?_, ?_⟩, fun hoff => ?_, fun h k _ => ?_, s.onlyChanges_setLogicResult x r⟩
  · rw [State.getV_setLogicResult, if_pos ⟨hon, rfl⟩]
  · rwa [if_pos hon] at hregs
  · rwa [hoff, if_neg (by decide)] at hregs
  · rw [s.getV_setLogicResult_same h, hr]

/-- Settles O20: the three results are bitwise, and all else is shared. -/
theorem logicWritesVxThenTheQuirk : Obligations.LogicWritesVxThenTheQuirk := by
  unfold Obligations.LogicWritesVxThenTheQuirk
  rintro s x y op i (⟨rfl, rfl⟩ | ⟨rfl, rfl⟩ | ⟨rfl, rfl⟩)
  · exact ⟨_, exec_orReg s x y, s.setLogicResult_spec x y fun _ => BitVec.getLsbD_or⟩
  · exact ⟨_, exec_andReg s x y, s.setLogicResult_spec x y fun _ => BitVec.getLsbD_and⟩
  · exact ⟨_, exec_xorReg s x y, s.setLogicResult_spec x y fun _ => BitVec.getLsbD_xor⟩

/-! ## The random byte, the index register and the timers -/

/-- Settles O25: the step latches the byte of its event before the instruction reads it. -/
theorem randomByteComesWithTheStep : Obligations.RandomByteComesWithTheStep := by
  unfold Obligations.RandomByteComesWithTheStep
  intro s r x kk hrun hev hdec
  refine ⟨_, (step_of_decode hrun hev hdec).trans (exec_rnd _ x kk), by simp, ?_, by simp, ?_⟩
  · exact State.onlyRegs_setV _ x _
  · exact ((s.onlyChanges_stepEvent r _).trans (State.onlyChanges_setV _ x _)).mono (by simp)

/-- Settles O28: the sum wraps at the width of I, and I is the only write. -/
theorem addIndexWrapsWithoutFlag : Obligations.AddIndexWrapsWithoutFlag := by
  unfold Obligations.AddIndexWrapsWithoutFlag
  intro s x
  refine ⟨_, exec_addI s x, ?_, s.onlyChanges_setI _⟩
  rw [State.setI_i, BitVec.toNat_add, BitVec.toNat_setWidth_of_le (by decide)]

/-- Settles O40: each is one write of a byte that was read before it. -/
theorem timerMoves : Obligations.TimerMoves := by
  unfold Obligations.TimerMoves
  intro s x
  refine ⟨⟨_, exec_ldFromDt s x, s.getV_setV_same x _, s.onlyRegs_setV x _, s.onlyChanges_setV x _⟩, ?_, ?_⟩
  · exact ⟨_, exec_ldDt s x, rfl, s.onlyChanges_setDt _⟩
  · exact ⟨_, exec_ldSt s x, rfl, s.onlyChanges_setSt _⟩

/-! ## Control flow -/

/-- The target of BNNN is the exact sum: it fits in 16 bits (R107). -/
theorem absolutePlus_toNat (addr : Addr) (b : Byte) : (absolutePlus addr b).toNat = addr.toNat + b.toNat := by
  have haddr : addr.toNat < 2 ^ 12 := addr.isLt
  have hb : b.toNat < 2 ^ 8 := b.isLt
  rw [absolutePlus, BitVec.toNat_add, absolute_toNat, BitVec.toNat_setWidth_of_le (by decide)]
  exact Nat.mod_eq_of_lt (by omega)

/-- Settles O12: the jump is one write of PC with the exact sum. -/
theorem jumpV0AddsWithoutWrapping : Obligations.JumpV0AddsWithoutWrapping := by
  unfold Obligations.JumpV0AddsWithoutWrapping
  intro s addr
  exact ⟨_, exec_jpV0 s addr, absolutePlus_toNat addr _, s.onlyChanges_setPc _⟩

/-- Settles O13: the return counts SP back to the slot that the call wrote. -/
theorem returnUndoesCall : Obligations.ReturnUndoesCall := by
  unfold Obligations.ReturnUndoesCall
  intro s t u addr hcall hsp hstack
  obtain rfl := Host.Outcome.next.inj ((exec_call s addr).symm.trans hcall)
  have hback : u.sp - 1 = s.sp := by simp [hsp]
  refine ⟨_, exec_ret u, ?_, ?_⟩
  · rw [State.setPc_pc, hback, hstack]
    simp
  · rw [State.setPc_sp, State.setSp_sp, hback]

/-- Settles O15: both instructions are one conditional skip, on the comparison and on its negation. -/
theorem registerSkips : Obligations.RegisterSkips := by
  unfold Obligations.RegisterSkips
  intro s x y
  constructor
  · exact ⟨_, exec_seReg s x y, by simp, s.onlyChanges_skipIf _⟩
  · exact ⟨_, exec_sneReg s x y, by simp, s.onlyChanges_skipIf _⟩

end Sys2Proof.Machine
end

section
/-! The display (43_display.md R170 to R173). A draw flips the cells under the visible lit pixels of the sprite, and its flag
says whether one of them was set; a second draw of the same sprite meets each of those cells flipped. -/

namespace Sys2Proof.Machine

variable {s t : State}

/-- Settles O35: the blank display replaces the buffer, and the signal delivers it. -/
theorem clearBlanksEveryCell : Obligations.ClearBlanksEveryCell := by
  unfold Obligations.ClearBlanksEveryCell
  intro s
  obtain ⟨t, ht, hframe⟩ := exec_answers .cls s
  obtain rfl := Host.Outcome.next.inj ((exec_cls s).symm.trans ht)
  refine ⟨_, ht, fun x y => ?cells, ?outputs, hframe⟩
  case cells => simp
  case outputs => rfl

/-- Cell (px, py) of the grid lies under a lit pixel of the sprite that DXYN draws from `s` (R172). -/
def State.drawn (s : State) (x y : Reg) (n : BitVec 4) (px py : Nat) : Bool :=
  decide (px < 64 ∧ py < 32) && s.spritePixel ((s.getV x).toNat % 64) ((s.getV y).toNat % 32) n.toNat px py

theorem drawn_iff {x y : Reg} {n : BitVec 4} {px py : Nat} : s.drawn x y n px py = true ↔
    (px < 64 ∧ py < 32) ∧ s.spritePixel ((s.getV x).toNat % 64) ((s.getV y).toNat % 32) n.toNat px py = true := by
  simp [State.drawn]

/-- DXYN flips the cells under the sprite. -/
theorem cell_of_exec_drw {x y : Reg} {n : BitVec 4} (h : exec (.drw x y n) s = .next t) (px py : Nat) :
    t.disp.cell px py = (s.disp.cell px py ^^ s.drawn x y n px py) := by
  obtain rfl := Host.Outcome.next.inj ((exec_drw s x y n).symm.trans h)
  exact s.cell_plotSprite _ _ _ px py

theorem collision_iff_drawn {x y : Reg} {n : BitVec 4} :
    (s.plotSprite (startColumn (s.getV x)) (startRow (s.getV y)) n.toNat).collision = true ↔
      ∃ px py, s.drawn x y n px py = true ∧ s.disp.cell px py = true := by
  rw [State.collision_plotSprite]
  refine exists_congr fun px => exists_congr fun py => ?_
  rw [drawn_iff, and_assoc, and_assoc, startColumn, startRow]

/-- VF is the collision flag: 1 exactly when a cell under the sprite was set. -/
theorem getV_VF_of_exec_drw {x y : Reg} {n : BitVec 4} (h : exec (.drw x y n) s = .next t) :
    ((∃ px py, s.drawn x y n px py = true ∧ s.disp.cell px py = true) → t.getV VF = 1) ∧
    ((∀ px py, s.drawn x y n px py = true → s.disp.cell px py = false) → t.getV VF = 0) := by
  have hflag : t.getV VF =
      flagByte (s.plotSprite (startColumn (s.getV x)) (startRow (s.getV y)) n.toNat).collision := by
    obtain rfl := Host.Outcome.next.inj ((exec_drw s x y n).symm.trans h)
    simp
  rw [hflag]
  constructor
  · intro hset
    rw [collision_iff_drawn.mpr hset]
    rfl
  · intro hclear
    have hnone : ¬∃ px py, s.drawn x y n px py = true ∧ s.disp.cell px py = true := by
      rintro ⟨px, py, hdrawn, hcell⟩
      exact absurd ((hclear px py hdrawn).symm.trans hcell) (by decide)
    rw [Bool.eq_false_iff.mpr (mt collision_iff_drawn.mp hnone)]
    rfl

/-- Settles O36: the cells and the flag are those of the sprite as a whole, VF the only register written, and the event is
raised after both. -/
theorem drawXorsTheClippedSprite : Obligations.DrawXorsTheClippedSprite := by
  unfold Obligations.DrawXorsTheClippedSprite
  intro s x y n
  obtain ⟨t, ht, hframe⟩ := exec_answers (.drw x y n) s
  obtain ⟨hset, hclear⟩ := getV_VF_of_exec_drw ht
  have hregs : OnlyRegs [VF] s t := registersWrittenAreTheTables (.drw x y n) s t ht
  refine ⟨t, ht, cell_of_exec_drw ht, ?collides, ?clear, ?outputs, hregs, hframe.mono (by simp [Instr.parts])⟩
  case collides =>
    rintro ⟨px, py, hx, hy, hpixel, hcell⟩
    exact hset ⟨px, py, drawn_iff.mpr ⟨⟨hx, hy⟩, hpixel⟩, hcell⟩
  case clear =>
    intro h
    refine hclear fun px py hdrawn => ?_
    obtain ⟨⟨hx, hy⟩, hpixel⟩ := drawn_iff.mp hdrawn
    exact h px py hx hy hpixel
  case outputs =>
    obtain rfl := Host.Outcome.next.inj ((exec_drw s x y n).symm.trans ht)
    rfl

/-- The second of two identical draws is under the same cells: the first has left I, memory and the coordinates. -/
theorem drawn_after_draw {x y : Reg} {n : BitVec 4} (hx : x ≠ VF) (hy : y ≠ VF) (h : exec (.drw x y n) s = .next t)
    (px py : Nat) : t.drawn x y n px py = s.drawn x y n px py := by
  have hregs : OnlyRegs [VF] s t := registersWrittenAreTheTables (.drw x y n) s t h
  have hi : t.i = s.i := exec_same h (p := .index) (by simp [Instr.parts])
  have hmem : ∀ a, t.readByte a = s.readByte a := exec_same h (p := .memory) (by simp [Instr.parts])
  rw [State.drawn, State.drawn, hregs x (by simpa using hx), hregs y (by simpa using hy), spritePixel_congr hi hmem]

/-- Settles O37: flipping twice is flipping not at all, and what the second draw finds set is what the first found clear. -/
theorem drawTwiceRestoresTheDisplay : Obligations.DrawTwiceRestoresTheDisplay := by
  unfold Obligations.DrawTwiceRestoresTheDisplay
  intro s t u x y n hx hy hfirst hsecond
  have hdrawn := drawn_after_draw hx hy hfirst
  have hcell := cell_of_exec_drw hfirst
  obtain ⟨hset, hclear⟩ := getV_VF_of_exec_drw hsecond
  refine ⟨fun px py => ?restored, ?collides, ?clear⟩
  case restored => rw [cell_of_exec_drw hsecond, hcell, hdrawn, Bool.xor_assoc, Bool.xor_self, Bool.xor_false]
  case collides =>
    rintro ⟨px, hpx, py, hpy, hwas, hpixel⟩
    have hlit : s.drawn x y n px py = true := drawn_iff.mpr ⟨⟨hpx, hpy⟩, hpixel⟩
    exact hset ⟨px, py, (hdrawn px py).trans hlit, by rw [hcell, hwas, hlit, Bool.false_xor]⟩
  case clear =>
    intro h
    refine hclear fun px py hlit => ?_
    rw [hdrawn] at hlit
    obtain ⟨⟨hpx, hpy⟩, hpixel⟩ := drawn_iff.mp hlit
    have hwas : s.disp.cell px py = true := by
      rw [← Bool.not_eq_false]
      exact fun hoff => absurd (h px hpx py hpy hoff) (by simp [hpixel])
    rw [hcell, hwas, hlit, Bool.xor_self]

end Sys2Proof.Machine
end

section
/-! Reset, `init` and `run()` (70_reset_and_hazards.md R260 to R263). After `init` memory reads as the font and zeroes with the
program laid over them, and every other part is as after reset. -/

namespace Sys2Proof.Machine

variable {c : Config} {prog : List Byte}

/-- Inside the address space a reading reduces nothing. -/
theorem readByte_of_lt (s : State) {a : Nat} (ha : a < 4096) : s.readByte a = Memory.read s.config s.mem a := by
  rw [State.readByte, Nat.mod_eq_of_lt ha]

/-- A byte that nothing has written reads as after `init` with an empty program. -/
theorem read_nil (c : Config) (a : Nat) : Memory.read c [] a =
    if c.fontBase ≤ a ∧ a < c.fontBase + 80 then c.fontData.getD (a - c.fontBase) 0 else 0 := rfl

/-- Settles O51: every register and cell is a fixed 0, and memory lists no byte. -/
theorem resetHoldsTheListedValues : Obligations.ResetHoldsTheListedValues := by
  unfold Obligations.ResetHoldsTheListedValues
  refine ⟨by decide, rfl, rfl, rfl, by decide, rfl, rfl, blankDisplay_cell, rfl, rfl, rfl, fun a ha => ?_⟩
  exact (readByte_of_lt State.reset ha).trans (read_nil defaultConfig a)

theorem init_of_fits (hwf : c.wf = true) (hlen : prog.length ≤ 3584) :
    State.init c (some prog) = .next (State.initialised c prog) := by
  simp [State.init, hwf, imageFits, hlen]

/-- The image ends inside the address space (R260). -/
theorem initialised_inv (hwf : c.wf = true) (hlen : prog.length ≤ 3584) : (State.initialised c prog).Inv where
  memory := Memory.load_wf prog (by simp only [progBase, memSize]; omega) (Memory.nil_wf c)
  config := hwf
  run h := absurd h Bool.false_ne_true

/-- `init` replaces the configuration and memory of the state after reset. -/
theorem initialised_onlyChanges (c : Config) (prog : List Byte) :
    OnlyChanges [.config, .memory] State.reset (State.initialised c prog) := by
  intro p hp
  cases p with
  | config | memory => simp at hp
  | regs | stack => exact fun _ => rfl
  | display => exact fun _ _ => rfl
  | _ => rfl

/-- Settles O52: the image fits, and a reading finds the program where it was laid and the empty memory elsewhere. -/
theorem initLoadsFontAndProgram : Obligations.InitLoadsFontAndProgram := by
  unfold Obligations.InitLoadsFontAndProgram
  intro c prog hwf hlen
  refine ⟨_, init_of_fits hwf hlen, rfl, fun a ha => ?_, initialised_inv hwf hlen, initialised_onlyChanges c prog⟩
  rw [readByte_of_lt _ ha]
  exact (Memory.read_load c prog [] progBase a).trans (by rw [read_nil])

/-- Settles O53: the check on the image refuses it, and an unreadable one is refused before it. -/
theorem initRejectsOversizedAndUnreadable : Obligations.InitRejectsOversizedAndUnreadable := by
  unfold Obligations.InitRejectsOversizedAndUnreadable
  intro c hwf
  refine ⟨by simp [State.init, hwf], fun prog hlong => ?_⟩
  have hfits : imageFits prog = false := decide_eq_false (not_le.mpr hlong)
  simp [State.init, hwf, hfits]

theorem State.onlyChanges_run (s : State) : OnlyChanges [.running] s s.run := by
  intro p hp
  cases p with
  | running => simp at hp
  | _ => simp [Part.Same]

/-- Settles O54: the move is `run()`, which sets the run flag. -/
theorem firstMoveIsRun : Obligations.FirstMoveIsRun := by
  unfold Obligations.FirstMoveIsRun
  intro s hrun hended
  exact ⟨_, step_boot hrun hended, s.run_running, s.onlyChanges_run⟩

end Sys2Proof.Machine
end
